-- ==== Sys2Proof/Word.lean ====
section
/-! DEFINITION. The value types of the SPE: every value is an unsigned bit vector of a stated width
(00_scope.md R5, R7), and the five sequencer states. -/

namespace Sys2Proof

/-- The request word `w[15:0]` (30_encoding.md R50). -/
abbrev RequestWord := BitVec 16

/-- A command code, 8 bits (00_scope.md R5). -/
abbrev CommandCode := BitVec 8

/-- A write frame's address, 6 bits (00_scope.md R5). -/
abbrev Address := BitVec 6

/-- A data byte or segment pattern, 8 bits (00_scope.md R5). -/
abbrev DataByte := BitVec 8

/-- The zero-based digit position of a DIGIT request, 5 bits (30_encoding.md R53). -/
abbrev Position := BitVec 5

/-- The digit field of a DIGIT or LOOKUP request, 4 bits (30_encoding.md R53, R54). -/
abbrev Digit := BitVec 4

/-- The frame shift register's width, 17 bits (00_scope.md R5, 10_state.md R17). -/
abbrev ShiftWord := BitVec 17

/-- The five sequencer states (10_state.md R18). Their binary encoding is not observable, so an
inductive type holds them. -/
inductive SeqState where
  | idle | lead | low | setup | high
deriving DecidableEq, Repr, Inhabited

end Sys2Proof
end

