-- ==== Sys2Proof/AsmSyntax.lean ====
section
/-! DEFINITION. The assembler's statements as terms, operands not yet checked (30_encoding.md R62,
R63), and the names of what an assembler refuses. -/

namespace Sys2Proof

/-- The seven pseudo-instructions of 30_encoding.md R63. -/
inductive Pseudo where
  | sysDis | sysEn | lcdOff | lcdOn | bias13Com4 | rcInt | wdtDis
deriving DecidableEq, Repr

/-- One assembler statement (30_encoding.md R62). Operands are plain numbers: the assembler checks
them. -/
inductive Asm where
  | cmd (code : Nat)
  | write (addr data : Nat)
  | digit (pos dg : Nat) (colon : Bool)
  | lookup (dg : Nat) (colon : Bool)
  | pseudo (p : Pseudo)
deriving DecidableEq, Repr

/-- Why the assembler refuses a statement. The five range errors are R62's "refuses an operand outside
its range"; the other three are lines that are no statement of R62's syntax (log 12). -/
inductive AsmError where
  | codeRange | addrRange | dataRange | posRange | digitRange
  | unknownMnemonic | badNumber | badOperands
deriving DecidableEq, Repr

end Sys2Proof
end

