-- ==== Sys2Proof/Syntax.lean ====
section
/-! DEFINITION. The instructions: one constructor per row of spec/opcode_table.json. -/

namespace Sys2Proof

/-- The six rows of the opcode table: the four requests (30_encoding.md R50) and the two wire frames
they send (30_encoding.md R58, R59). Reserved request bits carry no meaning (R55) and are not kept. -/
inductive Instr where
  /-- CMD (R51, R80): send one command frame. -/
  | cmd (code : CommandCode)
  /-- WRITE (R52, R81): send one write frame. -/
  | write (addr : Address) (data : DataByte)
  /-- DIGIT (R53, R93): encode a digit and send it to a position. -/
  | digit (pos : Position) (colon : Bool) (dg : Digit)
  /-- LOOKUP (R54, R94): encode a digit and return the pattern. -/
  | lookup (colon : Bool) (dg : Digit)
  /-- FRAME.CMD (R58): the 12-bit command frame on the wire. -/
  | frameCmd (code : CommandCode)
  /-- FRAME.WRITE (R59): the 17-bit write frame on the wire. -/
  | frameWrite (addr : Address) (data : DataByte)
deriving DecidableEq, Repr

end Sys2Proof
end

