-- ==== Sys2Proof/WellFormed.lean ====
section
/-! DEFINITION. Well-formedness. Every `Instr` is well-formed by its field widths: the request set has
no illegal encoding (30_encoding.md R56, R61). What can be ill-formed is an assembler statement, whose
operands are plain numbers (R62), and an instruction put on the request port that is no request. -/

namespace Sys2Proof

/-- Is the instruction one of the four requests of 30_encoding.md R50? A wire frame is none: no word
spells one (00_scope.md R4 (f), decision D5). -/
def Instr.isRequest : Instr → Bool
  | .cmd _ => true
  | .write _ _ => true
  | .digit _ _ _ => true
  | .lookup _ _ => true
  | .frameCmd _ => false
  | .frameWrite _ _ => false

/-- The operand ranges of 30_encoding.md R62, in operand order: the first operand outside its range
is the error. Digits 10–15 are accepted. -/
def Asm.check : Asm → Option AsmError
  | .cmd code => if code ≤ 255 then none else some .codeRange
  | .write addr data =>
    if addr ≤ 63 then (if data ≤ 255 then none else some .dataRange) else some .addrRange
  | .digit pos dg _ =>
    if pos ≤ 31 then (if dg ≤ 15 then none else some .digitRange) else some .posRange
  | .lookup dg _ => if dg ≤ 15 then none else some .digitRange
  | .pseudo _ => none

/-- Every operand is in its range. -/
abbrev Asm.WellFormed (a : Asm) : Prop := a.check = none

end Sys2Proof
end

