-- ==== Sys2Proof/Decode.lean ====
section
/-! DEFINITION. Decoding and encoding: request words (30_encoding.md R50 to R56) and wire frames
(R58 to R60). Decoding comes first, the encoder after it, from the same tables. -/

namespace Sys2Proof

/-! ## Bit strings, most significant bit first (20_memory.md R37) -/

/-- The bits of a value, most significant first. -/
def bitsMsb {n : Nat} (v : BitVec n) : List Bool := (List.range n).map v.getMsbD

/-- The number a bit string spells, most significant bit first. -/
def bitsValue (bits : List Bool) : Nat := bits.foldl (fun v b => 2 * v + b.toNat) 0

/-! ## Decoding -/

/-- `Decode(w)` of 30_encoding.md R56: total on all 65,536 words. -/
def decodeRequest (w : RequestWord) : Instr :=
  if w.extractLsb' 14 2 = 0b00#2 then .cmd (w.extractLsb' 0 8)
  else if w.extractLsb' 14 2 = 0b01#2 then .write (w.extractLsb' 8 6) (w.extractLsb' 0 8)
  else if w.extractLsb' 14 2 = 0b10#2 then
    .digit (w.extractLsb' 9 5) (w.getLsbD 4) (w.extractLsb' 0 4)
  else .lookup (w.getLsbD 4) (w.extractLsb' 0 4)

/-- Why a bit string is no frame of the SPE. DESIGN CHOICE: the spec says which strings the SPE sends,
not what a receiver does with another (log 13). -/
inductive DecodeError where
  /-- The first three bits are neither `100` nor `101` (30_encoding.md R60). -/
  | unknownPrefix
  /-- The length is not the one its mode prefix tells (R60). -/
  | wrongLength
  /-- The don't-care bit of a command frame, which the SPE always sends as 0, is 1 (R58). -/
  | dontCareSet
  /-- A table word whose width is no row's width, or that has bits above its width. -/
  | noSuchWidth
deriving DecidableEq, Repr

/-- What a receiver of the SPE's wire output reads from the bits of one frame: the mode prefix tells
kind and length (30_encoding.md R58, R59, R60). -/
def decodeFrame (bits : List Bool) : Except DecodeError Instr :=
  if bits.take 3 = [true, false, false] then
    if bits.length = 12 then
      if bits.getLast? = some false then .ok (.frameCmd (BitVec.ofNat 8 (bitsValue bits / 2)))
      else .error .dontCareSet
    else .error .wrongLength
  else if bits.take 3 = [true, false, true] then
    if bits.length = 17 then
      .ok (.frameWrite (BitVec.ofNat 6 (bitsValue bits / 256)) (BitVec.ofNat 8 (bitsValue bits)))
    else .error .wrongLength
  else .error .unknownPrefix

/-- An encoded instruction: a word on the request port, or the bits of a frame on the wire. -/
inductive Encoded where
  | request (w : RequestWord)
  | wire (bits : List Bool)
deriving DecidableEq, Repr

/-- The decoder: total, rejecting by name. No request word is rejected (30_encoding.md R56). -/
def decode : Encoded → Except DecodeError Instr
  | .request w => .ok (decodeRequest w)
  | .wire bits => decodeFrame bits

/-- The encoded form that a table row of `nbits` bits and the number `w` stand for. A row of 16 bits is
a request word; the wire frames have 12 and 17 bits, 17 filled up to whole bytes being 24 (log 6). -/
def tableWord (nbits w : Nat) : Except DecodeError Encoded :=
  if nbits = 16 then
    if w < 2 ^ 16 then .ok (.request (BitVec.ofNat 16 w)) else .error .noSuchWidth
  else if nbits = 12 then
    if w < 2 ^ 12 then .ok (.wire (bitsMsb (BitVec.ofNat 12 w))) else .error .noSuchWidth
  else if nbits = 17 ∨ nbits = 24 then
    if w < 2 ^ 17 then .ok (.wire (bitsMsb (BitVec.ofNat 17 w))) else .error .noSuchWidth
  else .error .noSuchWidth

/-- The instruction the decoder reads from an opcode-table word. -/
def decodeTableWord (nbits w : Nat) : Option Instr :=
  match tableWord nbits w with
  | .ok e =>
    match decode e with
    | .ok i => some i
    | .error _ => none
  | .error _ => none

/-! ## Encoding -/

/-- `00rrrrrrcccccccc`, reserved bits 0 (30_encoding.md R51, R55). -/
def cmdWord (code : CommandCode) : RequestWord := 0b00#2 ++ 0#6 ++ code

/-- `01aaaaaadddddddd` (30_encoding.md R52). -/
def writeWord (addr : Address) (data : DataByte) : RequestWord := 0b01#2 ++ addr ++ data

/-- `10ppppprrrrkgggg`, reserved bits 0 (30_encoding.md R53, R55). -/
def digitWord (pos : Position) (colon : Bool) (dg : Digit) : RequestWord :=
  0b10#2 ++ pos ++ 0#4 ++ BitVec.ofBool colon ++ dg

/-- `11rrrrrrrrrkgggg`, reserved bits 0 (30_encoding.md R54, R55). -/
def lookupWord (colon : Bool) (dg : Digit) : RequestWord :=
  0b11#2 ++ 0#9 ++ BitVec.ofBool colon ++ dg

/-- `{0b100, code, 0b0}`, the 12-bit command frame (30_encoding.md R58). -/
def cmdFrameWord (code : CommandCode) : BitVec 12 := 0b100#3 ++ code ++ 0b0#1

/-- `{0b101, addr, data}`, the 17-bit write frame (30_encoding.md R59). -/
def writeFrameWord (addr : Address) (data : DataByte) : BitVec 17 := 0b101#3 ++ addr ++ data

/-- The encoder. It writes 0 in every reserved bit (30_encoding.md R55). -/
def encode : Instr → Encoded
  | .cmd code => .request (cmdWord code)
  | .write addr data => .request (writeWord addr data)
  | .digit pos colon dg => .request (digitWord pos colon dg)
  | .lookup colon dg => .request (lookupWord colon dg)
  | .frameCmd code => .wire (bitsMsb (cmdFrameWord code))
  | .frameWrite addr data => .wire (bitsMsb (writeFrameWord addr data))

/-- The request word with every reserved bit cleared (30_encoding.md R55): CMD `w[13:8]`, DIGIT
`w[8:5]`, LOOKUP `w[13:5]`; WRITE has none. -/
def clearReserved (w : RequestWord) : RequestWord :=
  if w.extractLsb' 14 2 = 0b00#2 then w &&& 0xC0FF#16
  else if w.extractLsb' 14 2 = 0b01#2 then w
  else if w.extractLsb' 14 2 = 0b10#2 then w &&& 0xFE1F#16
  else w &&& 0xC01F#16

/-- The request whose acceptance puts the instruction in the machine: a request itself; for a wire
frame the request that sends exactly that frame, the only way the spec gives to send it (30_encoding.md
R58, R59: "sent by CMD", "sent by WRITE"; log 6). -/
def carrierWord : Instr → RequestWord
  | .cmd code => cmdWord code
  | .write addr data => writeWord addr data
  | .digit pos colon dg => digitWord pos colon dg
  | .lookup colon dg => lookupWord colon dg
  | .frameCmd code => cmdWord code
  | .frameWrite addr data => writeWord addr data

end Sys2Proof
end

