-- ==== Sys2Proof/Config.lean ====
section
/-! DEFINITION. What the spec leaves open: the build parameters S, U and F_CLK (00_scope.md R6) and
the free values of an edge or a power-up whose outcome the spec calls unspecified. -/

namespace Sys2Proof

/-- The three open parameters of 00_scope.md R6. They are fixed when the block is built and no request
changes them (10_state.md R27). S and U are integers there. DESIGN CHOICE: for F_CLK, a frequency in Hz
whose type R6 does not state, a natural number; a fractional frequency cannot be spelled (log 2). -/
structure Params where
  /-- `S`, SETTLE_TICKS: the ticks of the LOW and of the HIGH phase. -/
  settle : Nat
  /-- `U`, SETUP_TICKS: the ticks of the SETUP phase. -/
  setup : Nat
  /-- `F_CLK` in whole Hz (log 2). No rule reads it; it converts ticks to time. -/
  fClk : Nat
deriving DecidableEq, Repr

/-- `S ≥ 1` and `U ≥ 1` (00_scope.md R6). -/
abbrev Params.Ok (p : Params) : Prop := 1 ≤ p.settle ∧ 1 ≤ p.setup

/-- `P = 2S + U`, the bit period in ticks (40_bit_transmitter.md R71). -/
def Params.period (p : Params) : Nat := 2 * p.settle + p.setup

/-- `ceil(log2 n)` for `n ≥ 1`. -/
def ceilLog2 (n : Nat) : Nat := if n ≤ 1 then 0 else Nat.log2 (n - 1) + 1

/-- `W_P = max(1, ceil(log2(max(S, U))))`, the width of `pcnt` (00_scope.md R6). -/
def Params.pcntWidth (p : Params) : Nat := max 1 (ceilLog2 (max p.settle p.setup))

/-- The timing premise `S × (1 / F_CLK) ≥ 2 µs`, written in whole numbers (70_reset_and_hazards.md
R120). The SPE does not check it and no rule depends on it. A clock of 0 Hz has no period and does not
meet it (DESIGN CHOICE, log 2). -/
abbrev Params.MeetsSettleTime (p : Params) : Prop :=
  0 < p.fClk ∧ 2 * p.fClk ≤ p.settle * 1000000

/-- The parameters at `State.reset`: the values the spec's vectors use, at a clock that meets the
premise of 70_reset_and_hazards.md R120. DESIGN CHOICE: the spec leaves them open (log 2). -/
def Config.params : Params := { settle := 2, setup := 1, fClk := 1000000 }

/-! The free values: what an element of 10_state.md R17 holds where the spec leaves it unspecified
(70_reset_and_hazards.md R113 and R116; 93_implementation_defined.md I2 and I14, both `any value`), and
what an edge samples from an input that changes too close to it (I14; log 15). The argument is the
number of the draw (log 7). -/

opaque Config.freeSt : Nat → SeqState
opaque Config.freeFsr : Nat → ShiftWord
opaque Config.freeBcnt : Nat → BitVec 5
opaque Config.freePcnt : Nat → Nat
opaque Config.freeLcdCsN : Nat → Bool
opaque Config.freeLcdWr : Nat → Bool
opaque Config.freeLcdData : Nat → Bool
opaque Config.freeRespValid : Nat → Bool
opaque Config.freeRespIgnored : Nat → Bool
opaque Config.freeRespData : Nat → DataByte
opaque Config.freeRstN : Nat → Bool
opaque Config.freeReqValid : Nat → Bool
opaque Config.freeReqWord : Nat → RequestWord

end Sys2Proof
end

