-- ==== Sys2Proof/Machine/State.lean ====
section
/-! DEFINITION. The state of the SPE (10_state.md R17) as plain data, what the host drives on the input
ports (R12), the state after reset, and the reasons a step can stop: there are none but an instruction
the model has not reached. -/

namespace Sys2Proof.Machine

/-- What the input ports hold in one tick (10_state.md R12). `clk` is the step itself. A port is stable
when it meets the set-up and hold times of the edge that ends the tick (70_reset_and_hazards.md R116);
one that is not changes too close to that edge, and its level is then the one before the change. One flag
a port, `req_word` as a whole: DESIGN CHOICE (log 7). -/
structure PortInput where
  /-- `rst_n`: reset, active low. -/
  rstN : Bool
  /-- `req_valid`: the host offers a request in this tick. -/
  reqValid : Bool
  /-- `req_word`: the request word, read only by the edge that accepts it. -/
  reqWord : RequestWord
  /-- Is `rst_n` stable? -/
  rstNStable : Bool := true
  /-- Is `req_valid` stable? -/
  reqValidStable : Bool := true
  /-- Is `req_word` stable? -/
  reqWordStable : Bool := true
deriving DecidableEq, Repr

/-- The machine. The first ten fields are the architectural state of 10_state.md R17, in its order; a
one-bit element is a `Bool`, `true` for level 1. The last three are the model's own. -/
structure State where
  /-- `st`, the sequencer state (R18). -/
  st : SeqState
  /-- `fsr`, the frame shift register (R19). -/
  fsr : ShiftWord
  /-- `bcnt`, the bits not yet finished (R20). -/
  bcnt : BitVec 5
  /-- `pcnt`, the ticks left in the phase after the current one (R21). -/
  pcnt : Nat
  /-- `lcd_cs_n`, chip-select, active low (R22). -/
  lcdCsN : Bool
  /-- `lcd_wr`, the write strobe (R22). -/
  lcdWr : Bool
  /-- `lcd_data`, serial data (R22). -/
  lcdData : Bool
  /-- `resp_valid`, the completion pulse (R16). -/
  respValid : Bool
  /-- `resp_ignored`, the one status flag (R26). -/
  respIgnored : Bool
  /-- `resp_data`, the value of the request accepted last (R23). -/
  respData : DataByte
  /-- S, U and F_CLK, constants of a run (00_scope.md R6, 10_state.md R27; log 2). -/
  params : Params
  /-- What the host drives in the coming ticks, the next edge's first (log 1). -/
  inputs : List PortInput
  /-- How many unspecified outcomes have been drawn (log 7). -/
  draws : Nat
deriving DecidableEq, Repr

/-- The SPE raises no exception and no request can fail once accepted (60_exceptions.md R97, R102), so
there is no fault: nobody raises one, and nothing rests on one (safe). -/
inductive Fault
deriving DecidableEq, Repr

/-- Why the model gives no meaning. The spec gives every instruction its effect, so there is no reason
but the first. -/
inductive Refusal where
  /-- Raised by an arm of `exec` whose instruction has no meaning yet (safe: the machine goes on where
  the model stops). No arm raises it. -/
  | notModelled (mnemonic : String)
deriving DecidableEq, Repr

/-- The three outcomes of a step on this machine. -/
abbrev Out := Host.Outcome State Fault Refusal

/-- The machine right after a reset edge: the reset values of 10_state.md R17. The three fields of the
model's own are DESIGN CHOICES (log 1, 2, 7). -/
def State.reset : State where
  st := .idle
  fsr := 0x00000
  bcnt := 0
  pcnt := 0
  lcdCsN := true
  lcdWr := true
  lcdData := false
  respValid := false
  respIgnored := false
  respData := 0x00
  params := Config.params
  inputs := []
  draws := 0

end Sys2Proof.Machine
end

