-- ==== Sys2Proof/Machine/Ops.lean ====
section
/-! DEFINITION. The named operations on the state: sampling the input ports, the reset values, the
unspecified values, the response registers, loading the transmitter and opening a frame. The SPE has no
memory and takes no exception (20_memory.md R36, 60_exceptions.md R102), so no operation reads or writes
memory or enters a handler; reset is what overrides an edge (R101, R103). -/

namespace Sys2Proof.Machine

/-! ## Input ports -/

/-- No reset and no request. -/
def PortInput.quiet : PortInput :=
  { rstN := true, reqValid := false, reqWord := 0 }

/-- The host offers `w`. -/
def PortInput.offer (w : RequestWord) : PortInput :=
  { rstN := true, reqValid := true, reqWord := w }

/-- The host holds reset low. -/
def PortInput.resetLow : PortInput :=
  { rstN := false, reqValid := false, reqWord := 0 }

/-- Every port keeps the synchronous-input rule (70_reset_and_hazards.md R116). -/
def PortInput.stable (p : PortInput) : Bool :=
  p.rstNStable && p.reqValidStable && p.reqWordStable

/-- Synchronous inputs with `rst_n` at 1. -/
def PortInput.running (p : PortInput) : Bool := p.stable && p.rstN

/-- `rst_n` is synchronous and at 1, whatever the request port does. -/
def PortInput.noReset (p : PortInput) : Bool := p.rstNStable && p.rstN

/-- The levels the edge samples: of a stable port its own, of another any level, the same for all that
read it at this edge (93_implementation_defined.md I14: "the value sampled from an input that changes
too close to a `clk` edge"; log 15). -/
def PortInput.settled (p : PortInput) (draw : Nat) : PortInput where
  rstN := if p.rstNStable then p.rstN else Config.freeRstN draw
  reqValid := if p.reqValidStable then p.reqValid else Config.freeReqValid draw
  reqWord := if p.reqWordStable then p.reqWord else Config.freeReqWord draw

/-- What the input ports hold in the current tick, which ends at the next edge. With nothing scheduled
they are quiet (DESIGN CHOICE, log 1). -/
def State.sampled (s : State) : PortInput := s.inputs.headD .quiet

/-- The tick is over: its inputs are gone. -/
def State.advance (s : State) : State := { s with inputs := s.inputs.tail }

/-- `req_ready = (rst_n == 1) AND (st == IDLE)` (10_state.md R14), of the level `rst_n` has in the
tick. -/
def State.reqReady (s : State) : Bool := s.sampled.rstN && s.st == .idle

/-- Does every port that the next edge reads keep the synchronous-input rule (70_reset_and_hazards.md
R116)? Every edge reads `rst_n`; only an edge in IDLE without reset reads `req_valid`, and `req_word`
only with `req_valid` at 1 (10_state.md R15, R30). -/
def State.synchronous (s : State) : Bool :=
  s.sampled.rstNStable &&
    (!s.sampled.rstN || s.st != .idle ||
      s.sampled.reqValidStable && (!s.sampled.reqValid || s.sampled.reqWordStable))

/-- The request the next edge accepts, by the levels it samples (10_state.md R15). Whether an edge
accepts that reads a port changing too close to it, and which word, is unspecified, so it is a free value
(DESIGN CHOICE, log 15). -/
def State.accepts (s : State) : Option RequestWord :=
  let p := s.sampled.settled s.draws
  if p.rstN && s.st == .idle && p.reqValid then some p.reqWord else none

/-! ## Reset and unspecified outcomes -/

/-- `ResetValues()` (70_reset_and_hazards.md R111): every element of 10_state.md R17 gets its reset
value. -/
def State.resetValues (s : State) : State :=
  { s with
    st := .idle, fsr := 0, bcnt := 0, pcnt := 0
    lcdCsN := true, lcdWr := true, lcdData := false
    respValid := false, respIgnored := false, respData := 0x00 }

/-- The elements that a request without a frame writes get values nothing constrains
(93_implementation_defined.md I14; log 7). -/
def State.freeResponse (s : State) : State :=
  { s with
    respValid := Config.freeRespValid s.draws, respIgnored := Config.freeRespIgnored s.draws
    respData := Config.freeRespData s.draws
    draws := s.draws + 1 }

/-- The elements that some request writes get values nothing constrains, `pcnt` one of its `W_P` bits.
No request writes WR or DATA at its accepting edge (93_implementation_defined.md I14; log 7). -/
def State.freeRequest (s : State) : State :=
  { s.freeResponse with
    st := Config.freeSt s.draws, fsr := Config.freeFsr s.draws, bcnt := Config.freeBcnt s.draws
    pcnt := Config.freePcnt s.draws % 2 ^ s.params.pcntWidth
    lcdCsN := Config.freeLcdCsN s.draws }

/-- Every element of 10_state.md R17 gets a value nothing constrains (70_reset_and_hazards.md R113,
R116; 93_implementation_defined.md I2, I14; log 7). -/
def State.unspecified (s : State) : State :=
  { s.freeRequest with
    lcdWr := Config.freeLcdWr s.draws, lcdData := Config.freeLcdData s.draws }

/-- The machine right after a reset edge, with its build parameters and what the host will drive. A run
starts here (10_state.md R33, 70_reset_and_hazards.md R113). -/
def State.started (p : Params) (inputs : List PortInput) : State :=
  { State.reset with params := p, inputs := inputs }

/-- The machine at power-up, before the first reset edge: every element is unspecified
(70_reset_and_hazards.md R113). -/
def State.powerUp (p : Params) (inputs : List PortInput) : State :=
  (State.started p inputs).unspecified

/-! ## Response registers -/

/-- The writes of `resp_ignored` and `resp_data` at an acceptance edge (10_state.md R16, R23). -/
def State.respond (s : State) (ignored : Bool) (data : DataByte) : State :=
  { s with respIgnored := ignored, respData := data }

/-- `resp_valid <- done`, the last line of every edge without reset (10_state.md R30). -/
def State.finish (s : State) (done : Bool) : State := { s with respValid := done }

/-! ## Opening a frame -/

/-- `Load(f, L)` (40_bit_transmitter.md R66): the frame stands left-aligned in `fsr`. -/
def State.load {L : Nat} (s : State) (f : BitVec L) : State :=
  { s with
    fsr := f.setWidth 17 <<< (17 - L), bcnt := BitVec.ofNat 5 L, pcnt := 0, st := .lead }

/-- `StartFrame(f, L)` (41_frame_composer.md R78): chip-select falls and the transmitter is loaded. -/
def State.startFrame {L : Nat} (s : State) (f : BitVec L) : State :=
  { s with lcdCsN := false }.load f

end Sys2Proof.Machine
end

