-- ==== Sys2Proof/Machine/Composer.lean ====
section
/-! DEFINITION. The frame composer (41_frame_composer.md): the meanings of CMD and WRITE, and of the two
wire frames they open. A meaning is the whole accepting edge, `resp_valid <- done` included
(10_state.md R30). -/

namespace Sys2Proof.Machine

/-- `ExecCMD` (41_frame_composer.md R80). -/
def execCmd (code : CommandCode) (s : State) : Out :=
  .next (((s.respond false code).startFrame (cmdFrameWord code)).finish false)

/-- `ExecWRITE` (41_frame_composer.md R81). -/
def execWrite (addr : Address) (data : DataByte) (s : State) : Out :=
  .next (((s.respond false data).startFrame (writeFrameWord addr data)).finish false)

/-- A command frame by itself: `StartFrame` of its 12 bits (30_encoding.md R58, 41_frame_composer.md
R78). It is no request, so it writes no response; it completes nothing at this edge (log 5). -/
def execFrameCmd (code : CommandCode) (s : State) : Out :=
  .next ((s.startFrame (cmdFrameWord code)).finish false)

/-- A write frame by itself: `StartFrame` of its 17 bits (30_encoding.md R59, 41_frame_composer.md
R78; log 5). -/
def execFrameWrite (addr : Address) (data : DataByte) (s : State) : Out :=
  .next ((s.startFrame (writeFrameWord addr data)).finish false)

end Sys2Proof.Machine
end

