-- ==== Sys2Proof/Machine/Operands.lean ====
section
/-! DEFINITION. Operand assembly (30_encoding.md R57): the segment table, the colon overlay and the
DIGIT address. -/

namespace Sys2Proof.Machine

/-- The segment table: ten patterns, a constant (42_segment_encoder.md R88, 20_memory.md R34). The
literals are the source's and unaudited (log 14). -/
def segmentTable : List DataByte :=
  [0xAF#8, 0xA0#8, 0xCB#8, 0xE9#8, 0xE4#8, 0x6D#8, 0x6F#8, 0xA8#8, 0xEF#8, 0xED#8]

/-- `LutRead(d)` (42_segment_encoder.md R88): no pattern for a digit of 10 or more. -/
def lutRead (d : Digit) : Option DataByte := segmentTable[d.toNat]?

/-- The colon overlay's mask, bit 4 (42_segment_encoder.md R90). -/
def colonMask : DataByte := 0x10

/-- `Encode(d, colon) = LutRead(d) | (colon ? 0x10 : 0x00)` (42_segment_encoder.md R90). -/
def segmentPattern (d : Digit) (colon : Bool) : Option DataByte :=
  (lutRead d).map (· ||| (if colon then colonMask else 0x00))

/-- The DIGIT address `{pos, 0b0}` (42_segment_encoder.md R95). -/
def digitAddress (pos : Position) : Address := pos ++ 0b0#1

/-! ## The pattern's bits (42_segment_encoder.md R89) -/

/-- What a pattern bit controls. -/
inductive Segment where
  | b | g | c | colon | a | f | e | d
deriving DecidableEq, Repr

/-- The pattern's bits from bit 7 to bit 0: "B,G,C,Colon,A,F,E,D, MSB to LSB". -/
def segmentLayout : List Segment := [.b, .g, .c, .colon, .a, .f, .e, .d]

/-- What a pattern lights, from bit 7 to bit 0. -/
def litSegments (p : DataByte) : List Segment :=
  ((segmentLayout.zip (List.range 8)).filter fun x => p.getMsbD x.2).map Prod.fst

end Sys2Proof.Machine
end

