-- ==== Sys2Proof/Machine/Flags.lean ====
section
/-! DEFINITION. The one status flag, `resp_ignored` (10_state.md R26), computed for the two requests
that name a digit, and the response they share. CMD and WRITE write it as 0 (41_frame_composer.md R80,
R81). -/

namespace Sys2Proof.Machine

/-- A digit field is out of range when it is 10–15 (42_segment_encoder.md R91). It is the value of
`resp_ignored` for a DIGIT or LOOKUP request (10_state.md R26). -/
def digitOutOfRange (d : Digit) : Bool := 9 < d.toNat

/-- The response of a DIGIT or LOOKUP request: its flag, and the encoded pattern or 0x00 when it is
ignored (10_state.md R23, 42_segment_encoder.md R91). -/
def State.respondDigit (s : State) (d : Digit) (colon : Bool) : State :=
  s.respond (digitOutOfRange d) ((segmentPattern d colon).getD 0x00)

end Sys2Proof.Machine
end

