-- ==== Sys2Proof/Machine/Encoder.lean ====
section
/-! DEFINITION. The segment encoder's requests (42_segment_encoder.md): the meanings of DIGIT and
LOOKUP, each the whole accepting edge. -/

namespace Sys2Proof.Machine

/-- `ExecDIGIT` (42_segment_encoder.md R93): a digit that has a pattern is sent to the address of its
position; one that has none is ignored and completes at this edge. -/
def execDigit (pos : Position) (colon : Bool) (d : Digit) (s : State) : Out :=
  match segmentPattern d colon with
  | some p =>
    .next (((s.respondDigit d colon).startFrame (writeFrameWord (digitAddress pos) p)).finish false)
  | none => .next ((s.respondDigit d colon).finish true)

/-- `ExecLOOKUP` (42_segment_encoder.md R94): no frame, complete at this edge. -/
def execLookup (colon : Bool) (d : Digit) (s : State) : Out :=
  .next ((s.respondDigit d colon).finish true)

end Sys2Proof.Machine
end

