-- ==== Sys2Proof/Machine/Dispatch.lean ====
section
/-! DEFINITION. One arm per instruction: what it does at its accepting edge (10_state.md R30). -/

namespace Sys2Proof.Machine

def exec (i : Instr) (s : State) : Host.Outcome State Fault Refusal :=
  match i with
  | .cmd code => Sys2Proof.Machine.execCmd code s
  | .write addr data => Sys2Proof.Machine.execWrite addr data s
  | .digit pos colon dg => Sys2Proof.Machine.execDigit pos colon dg s
  | .lookup colon dg => Sys2Proof.Machine.execLookup colon dg s
  -- the wire frames: opened by the composer, never by a request word of their own
  | .frameCmd code => Sys2Proof.Machine.execFrameCmd code s
  | .frameWrite addr data => Sys2Proof.Machine.execFrameWrite addr data s

end Sys2Proof.Machine
end

