-- ==== Sys2Proof/Machine/Transmitter.lean ====
section
/-! DEFINITION. The bit transmitter's sequencer steps (40_bit_transmitter.md), each the whole edge,
`resp_valid <- done` included. Every read sees the value before the edge (00_scope.md R9). -/

namespace Sys2Proof.Machine

/-- `StepLEAD` (40_bit_transmitter.md R67). -/
def State.stepLead (s : State) : State :=
  { s with lcdWr := false, pcnt := s.params.settle - 1, st := .low }.finish false

/-- `StepLOW` (40_bit_transmitter.md R68): at the end of the settle phase DATA takes `fsr[16]`. -/
def State.stepLow (s : State) : State :=
  if s.pcnt = 0 then
    { s with lcdData := s.fsr.getLsbD 16, pcnt := s.params.setup - 1, st := .setup }.finish false
  else { s with pcnt := s.pcnt - 1 }.finish false

/-- `StepSETUP` (40_bit_transmitter.md R69): at the end of the phase WR rises. -/
def State.stepSetup (s : State) : State :=
  if s.pcnt = 0 then
    { s with lcdWr := true, pcnt := s.params.settle - 1, st := .high }.finish false
  else { s with pcnt := s.pcnt - 1 }.finish false

/-- The end of a bit's HIGH phase (40_bit_transmitter.md R70): the next bit begins, or the frame ends,
chip-select rises and the request completes. The comparison reads `bcnt` before the edge. -/
def State.finishBit (s : State) : State :=
  let shifted := { s with fsr := s.fsr <<< 1, bcnt := s.bcnt - 1 }
  if 1 < s.bcnt.toNat then
    { shifted with lcdWr := false, pcnt := s.params.settle - 1, st := .low }.finish false
  else { shifted with lcdCsN := true, st := .idle }.finish true

/-- `StepHIGH` (40_bit_transmitter.md R70). -/
def State.stepHigh (s : State) : State :=
  if s.pcnt = 0 then s.finishBit else { s with pcnt := s.pcnt - 1 }.finish false

end Sys2Proof.Machine
end

