-- ==== Sys2Proof/Machine/Edge.lean ====
section
/-! DEFINITION. The rising clock edge (10_state.md R30), and placing an instruction where the next edge
takes it from. -/

namespace Sys2Proof.Machine

/-- Does the instruction open a frame at its accepting edge (41_frame_composer.md R80, R81;
42_segment_encoder.md R93, R94)? -/
def opensFrame : Instr → Bool
  | .cmd _ => true
  | .write _ _ => true
  | .digit _ _ d => !digitOutOfRange d
  | .lookup _ _ => false
  | .frameCmd _ => true
  | .frameWrite _ _ => true

/-- An edge in IDLE without reset. With `req_valid` stable at 0 the word is not read; a request that is
offered and stable is accepted. Otherwise `req_valid`, or the word of a request, changes too close to the
edge: every element that the edge may write under some reading of the unstable ports is unspecified, and
the others keep their values (70_reset_and_hazards.md R116, 93_implementation_defined.md I14: "`any
value` at that edge, for every state element that edge writes"). -/
def idleEdge (p : PortInput) (s : State) : Out :=
  if p.reqValidStable && !p.reqValid then .next (s.finish false)
  else if p.reqValidStable && p.reqWordStable then exec (decodeRequest p.reqWord) s
  else if p.reqWordStable && !opensFrame (decodeRequest p.reqWord) then .next s.freeResponse
  else .next s.freeRequest

/-- What the SPE does at one rising edge of `clk` (10_state.md R30). The inputs of the tick that ends
here are sampled and gone. Reset overrides everything (60_exceptions.md R101), so an `rst_n` that changes
too close to the edge leaves every element unspecified (70_reset_and_hazards.md R116); the request port
is read in IDLE only. -/
def clockEdge (s : State) : Out :=
  if s.sampled.rstNStable = false then .next s.advance.unspecified
  else if s.sampled.rstN = false then .next s.advance.resetValues
  else
    match s.st with
    | .idle => idleEdge s.sampled s.advance
    | .lead => .next s.advance.stepLead
    | .low => .next s.advance.stepLow
    | .setup => .next s.advance.stepSetup
    | .high => .next s.advance.stepHigh

/-- The machine with `w` offered in the current tick, ready to accept it: a machine in the middle of a
frame is first put where the end of a frame leaves it (10_state.md R29 (a); log 10). -/
def State.offering (s : State) (w : RequestWord) : State :=
  let ready :=
    if s.st = .idle then s
    else { s with st := .idle, fsr := 0, bcnt := 0, pcnt := 0, lcdCsN := true, lcdWr := true }
  { ready with inputs := .offer w :: s.inputs.tail }

/-- The machine with an opcode-table word placed so that the next edge takes it: a request word on the
port as it stands, reserved bits included; for a wire frame the request that sends it (log 6). A word
that no row has changes nothing. -/
def State.placeTableWord (s : State) (nbits w : Nat) : State :=
  match tableWord nbits w with
  | .ok (.request rw) => s.offering rw
  | .ok (.wire bits) =>
    match decodeFrame bits with
    | .ok i => s.offering (carrierWord i)
    | .error _ => s
  | .error _ => s

end Sys2Proof.Machine
end

