-- ==== Sys2Proof/Machine/Assembler.lean ====
section
/-! DEFINITION. The assembler (30_encoding.md R62, R63): statements to request words, and the text form
of a statement. -/

namespace Sys2Proof.Machine

/-! ## Statements to words -/

/-- The command code a pseudo-instruction stands for (30_encoding.md R63, 41_frame_composer.md R82). The
literals are the source's and unaudited (log 14). -/
def pseudoCode : Pseudo → CommandCode
  | .sysDis => 0x00
  | .sysEn => 0x01
  | .lcdOff => 0x02
  | .lcdOn => 0x03
  | .bias13Com4 => 0x28
  | .rcInt => 0x18
  | .wdtDis => 0x06

/-- The instruction a statement with operands in range stands for. -/
def asmInstr : Asm → Instr
  | .cmd code => .cmd (BitVec.ofNat 8 code)
  | .write addr data => .write (BitVec.ofNat 6 addr) (BitVec.ofNat 8 data)
  | .digit pos dg colon => .digit (BitVec.ofNat 5 pos) colon (BitVec.ofNat 4 dg)
  | .lookup dg colon => .lookup colon (BitVec.ofNat 4 dg)
  | .pseudo p => .cmd (pseudoCode p)

/-- The assembler builds the word of 30_encoding.md R51 to R54, reserved bits 0, and refuses an operand
outside its range (R62). -/
def assemble (a : Asm) : Except AsmError RequestWord :=
  match a.check with
  | some e => .error e
  | none => .ok (carrierWord (asmInstr a))

/-- The words of a sequence of statements; the first refused statement refuses it. -/
def assembleAll : List Asm → Except AsmError (List RequestWord)
  | [] => .ok []
  | a :: as =>
    match assemble a with
    | .error e => .error e
    | .ok w =>
      match assembleAll as with
      | .error e => .error e
      | .ok ws => .ok (w :: ws)

/-! ## Text (30_encoding.md R62; what R62 does not say of spelling is log 12) -/

/-- A piece of a line. -/
inductive Token where
  | word (cs : List Char)
  | comma
deriving DecidableEq, Repr

/-- The word collected so far, if any, as a token. -/
def closeWord (acc : List Char) : List Token := if acc = [] then [] else [.word acc.reverse]

/-- Blanks separate words, a comma is a token of its own. -/
def tokenize : List Char → List Char → List Token
  | [], acc => closeWord acc
  | c :: cs, acc =>
    if c = ',' then closeWord acc ++ .comma :: tokenize cs []
    else if c = ' ' ∨ c = '\t' then closeWord acc ++ tokenize cs []
    else tokenize cs (c :: acc)

/-- A decimal digit's value. -/
def decimalDigit (c : Char) : Option Nat :=
  if '0'.toNat ≤ c.toNat ∧ c.toNat ≤ '9'.toNat then some (c.toNat - '0'.toNat) else none

/-- A hexadecimal digit's value, in either case. -/
def hexDigit (c : Char) : Option Nat :=
  if 'a'.toNat ≤ c.toNat ∧ c.toNat ≤ 'f'.toNat then some (c.toNat - 'a'.toNat + 10)
  else if 'A'.toNat ≤ c.toNat ∧ c.toNat ≤ 'F'.toNat then some (c.toNat - 'A'.toNat + 10)
  else decimalDigit c

/-- The value of a string of digits in a base. -/
def digitsValue (base : Nat) (digit : Char → Option Nat) : List Char → Nat → Option Nat
  | [], v => some v
  | c :: cs, v =>
    match digit c with
    | some d => digitsValue base digit cs (base * v + d)
    | none => none

/-- "A number is decimal, or hexadecimal with a `0x` prefix." -/
def parseNumber : List Char → Option Nat
  | [] => none
  | ['0', 'x'] => none
  | '0' :: 'x' :: cs => digitsValue 16 hexDigit cs 0
  | cs => digitsValue 10 decimalDigit cs 0

/-- A mnemonic, in either case ("Mnemonics are case-insensitive"). -/
inductive Mnemonic where
  | cmd | write | digit | lookup
  | pseudo (p : Pseudo)
deriving DecidableEq, Repr

/-- The mnemonics of 30_encoding.md R62 and R63, in lower case. -/
def mnemonicTable : List (List Char × Mnemonic) :=
  [(['c', 'm', 'd'], .cmd),
   (['w', 'r', 'i', 't', 'e'], .write),
   (['d', 'i', 'g', 'i', 't'], .digit),
   (['l', 'o', 'o', 'k', 'u', 'p'], .lookup),
   (['s', 'y', 's', '_', 'd', 'i', 's'], .pseudo .sysDis),
   (['s', 'y', 's', '_', 'e', 'n'], .pseudo .sysEn)] ++
  [(['l', 'c', 'd', '_', 'o', 'f', 'f'], .pseudo .lcdOff),
   (['l', 'c', 'd', '_', 'o', 'n'], .pseudo .lcdOn),
   (['b', 'i', 'a', 's', '1', '3', '_', '4', 'c', 'o', 'm'], .pseudo .bias13Com4),
   (['r', 'c', '_', 'i', 'n', 't'], .pseudo .rcInt),
   (['w', 'd', 't', '_', 'd', 'i', 's'], .pseudo .wdtDis)]

/-- Reading a mnemonic. -/
def parseMnemonic (cs : List Char) : Option Mnemonic := mnemonicTable.lookup (cs.map Char.toLower)

/-- The keyword `colon`. -/
def colonWord : List Char := ['c', 'o', 'l', 'o', 'n']

/-- The operands of a statement: numbers separated by commas, and whether a last `, colon` stands. -/
def parseOperands : List Token → Except AsmError (List Nat × Bool)
  | [] => .ok ([], false)
  | [.word cs] =>
    match parseNumber cs with
    | some n => .ok ([n], false)
    | none => .error .badNumber
  | [.word cs, .comma, .word ds] =>
    match parseNumber cs with
    | none => .error .badNumber
    | some n =>
      if ds = colonWord then .ok ([n], true)
      else
        match parseNumber ds with
        | some m => .ok ([n, m], false)
        | none => .error .badNumber
  | [.word cs, .comma, .word ds, .comma, .word es] =>
    match parseNumber cs, parseNumber ds with
    | some n, some m => if es = colonWord then .ok ([n, m], true) else .error .badOperands
    | _, _ => .error .badNumber
  | _ => .error .badOperands

/-- A mnemonic with its operands as one of the statements of 30_encoding.md R62, R63. -/
def buildAsm : Mnemonic → List Nat × Bool → Except AsmError Asm
  | .cmd, ([code], false) => .ok (.cmd code)
  | .write, ([addr, data], false) => .ok (.write addr data)
  | .digit, ([pos, dg], colon) => .ok (.digit pos dg colon)
  | .lookup, ([dg], colon) => .ok (.lookup dg colon)
  | .pseudo p, ([], false) => .ok (.pseudo p)
  | _, _ => .error .badOperands

/-- Reading one line of assembler text. -/
def parseLine (line : List Char) : Except AsmError Asm :=
  match tokenize line [] with
  | .word m :: rest =>
    match parseMnemonic m with
    | none => .error .unknownMnemonic
    | some mn =>
      match parseOperands rest with
      | .error e => .error e
      | .ok ops => buildAsm mn ops
  | _ => .error .unknownMnemonic

/-- One line of assembler text to its request word. -/
def assembleLine (line : List Char) : Except AsmError RequestWord :=
  match parseLine line with
  | .error e => .error e
  | .ok a => assemble a

end Sys2Proof.Machine
end

