-- ==== Sys2Proof/Machine/Trace.lean ====
section
/-! DEFINITION. What an observer sees (10_state.md R33): the output ports, runs of many edges, a recorder
on the three serial pins and the response port (the recording harness of 90_conflicts.md C3), and the
transaction level that claims about requests are stated at (10_state.md R31). -/

namespace Sys2Proof.Machine

/-! ## Output ports and runs -/

/-- The output ports (10_state.md R13). -/
structure Outputs where
  reqReady : Bool
  respValid : Bool
  respIgnored : Bool
  respData : DataByte
  lcdCsN : Bool
  lcdWr : Bool
  lcdData : Bool
deriving DecidableEq, Repr

/-- What the output ports show in the current tick: `req_ready` is combinational, each other port shows
the register of its name (10_state.md R13, R14, R22, R23). -/
def State.outputs (s : State) : Outputs where
  reqReady := s.reqReady
  respValid := s.respValid
  respIgnored := s.respIgnored
  respData := s.respData
  lcdCsN := s.lcdCsN
  lcdWr := s.lcdWr
  lcdData := s.lcdData

/-- `n` edges. -/
def run : Nat → State → Out
  | 0, s => .next s
  | n + 1, s =>
    match step s with
    | .next t => run n t
    | .fault r => .fault r
    | .refused r => .refused r

/-- The words accepted in the next `n` edges, in order (10_state.md R15). -/
def acceptedWords : Nat → State → List RequestWord
  | 0, _ => []
  | n + 1, s =>
    s.accepts.toList ++
      match step s with
      | .next t => acceptedWords n t
      | .fault _ => []
      | .refused _ => []

/-! ## The transaction level (10_state.md R31) -/

/-- A frame (10_state.md R31). -/
inductive Frame where
  | cmd (code : CommandCode)
  | wr (addr : Address) (data : DataByte)
deriving DecidableEq, Repr

/-- A frame's bit string, most significant first (41_frame_composer.md R79). -/
def Frame.bits : Frame → List Bool
  | .cmd code => bitsMsb (cmdFrameWord code)
  | .wr addr data => bitsMsb (writeFrameWord addr data)

/-- A frame's length (41_frame_composer.md R79). -/
def Frame.len : Frame → Nat
  | .cmd _ => 12
  | .wr _ _ => 17

/-- A response (10_state.md R31). -/
structure Response where
  ignored : Bool
  data : DataByte
deriving DecidableEq, Repr

/-- `Exec(w)` of 10_state.md R31: the frames a request word puts on the wire and its response, written
from the word's bits and not through the decoder. -/
def transact (w : RequestWord) : List Frame × Response :=
  let colon := w.getLsbD 4
  let dg := w.extractLsb' 0 4
  match (w.extractLsb' 14 2).toNat with
  | 0 => ([.cmd (w.extractLsb' 0 8)], ⟨false, w.extractLsb' 0 8⟩)
  | 1 => ([.wr (w.extractLsb' 8 6) (w.extractLsb' 0 8)], ⟨false, w.extractLsb' 0 8⟩)
  | 2 =>
    match segmentPattern dg colon with
    | some p => ([.wr (w.extractLsb' 9 5 ++ 0b0#1) p], ⟨false, p⟩)
    | none => ([], ⟨true, 0x00⟩)
  | _ =>
    match segmentPattern dg colon with
    | some p => ([], ⟨false, p⟩)
    | none => ([], ⟨true, 0x00⟩)

/-- The ticks from a request's accepting edge to its completion edge (70_reset_and_hazards.md R125). -/
def latency (p : Params) (w : RequestWord) : Nat :=
  match (transact w).1 with
  | [] => 0
  | f :: _ => 1 + f.len * p.period

/-- What a host drives that offers a sequence of requests back to back: the first at once, each next one
from the tick after the one before it was accepted until it is accepted itself, and nothing while the
last completes (70_reset_and_hazards.md R126). -/
def backToBack (p : Params) : List RequestWord → List PortInput
  | [] => []
  | [w] => .offer w :: List.replicate (latency p w) .quiet
  | w :: v :: ws =>
    .offer w :: (List.replicate (latency p w) (.offer v) ++ backToBack p (v :: ws))

/-! ## The recorder -/

/-- What a harness on the pins has recorded so far. -/
structure Recorder where
  /-- The level `lcd_cs_n` had. -/
  csN : Bool
  /-- The level `lcd_wr` had. -/
  wr : Bool
  /-- The bits sampled in the CS-low interval now open, in wire order. -/
  bits : List Bool
  /-- The CS-low intervals closed so far, each with the bits sampled in it. -/
  frames : List (List Bool)
  /-- The responses given so far (10_state.md R16). -/
  responses : List Response
  /-- WR rises while CS was high (10_state.md R32 (c) says there are none). -/
  strayRises : Nat
  /-- WR rises at the very edge where CS rises: whether the chip samples a bit there is not in the
  source (70_reset_and_hazards.md R121; log 11). -/
  glitches : Nat
deriving DecidableEq, Repr

/-- A recorder that starts with the pins as they stand. -/
def Recorder.startAt (s : State) : Recorder where
  csN := s.lcdCsN
  wr := s.lcdWr
  bits := []
  frames := []
  responses := []
  strayRises := 0
  glitches := 0

/-- The recorder after an edge that left the machine in `s`: a bit is the level of DATA at a WR rising
edge within a CS-low interval (40_bit_transmitter.md R75, 10_state.md R32). -/
def Recorder.observe (r : Recorder) (s : State) : Recorder :=
  let rose := !r.wr && s.lcdWr
  let closed := !r.csN && s.lcdCsN
  { csN := s.lcdCsN
    wr := s.lcdWr
    bits := if r.csN || s.lcdCsN then [] else if rose then r.bits ++ [s.lcdData] else r.bits
    frames := if closed then r.frames ++ [r.bits] else r.frames
    responses :=
      if s.respValid then r.responses ++ [⟨s.respIgnored, s.respData⟩] else r.responses
    strayRises := if rose && r.csN then r.strayRises + 1 else r.strayRises
    glitches := if rose && closed then r.glitches + 1 else r.glitches }

/-- The recorder after `n` more edges. -/
def record : Nat → State → Recorder → Recorder
  | 0, _, r => r
  | n + 1, s, r =>
    match step s with
    | .next t => record n t (r.observe t)
    | .fault _ => r
    | .refused _ => r

end Sys2Proof.Machine
end

