-- ==== Sys2Proof/Machine/HostMacros.lean ====
section
/-! DEFINITION. The host macros (30_encoding.md R64): the source's display operations as sequences of
requests. The SPE has no knowledge of them. -/

namespace Sys2Proof.Machine

/-- The host macros of 30_encoding.md R64. -/
inductive HostMacro where
  | init | displayOff | displayOn | systemOff | systemOn | clear | allOn
  | showDigit (p d : Int) (colon : Bool)
  | showNum (n : Int)
deriving DecidableEq, Repr

/-- One WRITE of `data` to each of the 16 even addresses, in increasing order (decision D25). -/
def writeAll (data : Nat) : List Asm := (List.range 16).map fun i => .write (2 * i) data

/-- What a host macro expands to (30_encoding.md R64, 90_conflicts.md C1). -/
def HostMacro.expand : HostMacro → List Asm
  | .init => [.pseudo .sysEn, .pseudo .bias13Com4, .pseudo .rcInt, .pseudo .wdtDis, .pseudo .lcdOn]
  | .displayOff => [.pseudo .lcdOff]
  | .displayOn => [.pseudo .lcdOn]
  | .systemOff => [.pseudo .sysDis]
  | .systemOn => [.pseudo .sysEn]
  | .clear => writeAll 0x00
  | .allOn => writeAll 0xFF
  | .showDigit p d colon =>
    if 0 ≤ d ∧ d ≤ 9 then [.digit (p % 32).toNat d.toNat colon]
    else [.digit (p % 32).toNat 15 false]
  | .showNum n =>
    writeAll 0x00 ++
      if 0 ≤ n ∧ n ≤ 99 then
        (if 9 < n then [.digit 0 (n / 10).toNat false] else []) ++ [.digit 1 (n % 10).toNat false]
      else []

/-- The frames a host macro puts on the wire (10_state.md R31, R33). -/
def HostMacro.frames (m : HostMacro) : List Frame :=
  match assembleAll m.expand with
  | .ok ws => ws.flatMap fun w => (transact w).1
  | .error _ => []

/-- The chip's RAM cells that a write frame's address spans: "two consecutive 4-bit storage cells"
(20_memory.md R35). The chip has cells 0–31 only; the SPE does not check. -/
def Frame.cells : Frame → List Nat
  | .cmd _ => []
  | .wr addr _ => [addr.toNat, addr.toNat + 1]

end Sys2Proof.Machine
end

