-- ==== Sys2Proof/Safety.lean ====
section
/-! DEFINITION. What counts as a legal state and a legal stretch of a run, in the words the statements
use. -/

namespace Sys2Proof.Machine

/-- The invariants of 10_state.md R29, clause by clause; (g) says that `lcd_data` is arbitrary in
IDLE. -/
structure State.Legal (s : State) : Prop where
  idle_shape : s.st = .idle →
    s.fsr = 0 ∧ s.bcnt = 0 ∧ s.pcnt = 0 ∧ s.lcdCsN = true ∧ s.lcdWr = true
  busy_shape : s.st ≠ .idle → s.lcdCsN = false ∧ 1 ≤ s.bcnt.toNat ∧ s.bcnt.toNat ≤ 17
  lead_shape : s.st = .lead → s.lcdWr = true ∧ s.pcnt = 0
  wr_low : s.st = .low ∨ s.st = .setup → s.lcdWr = false
  wr_high : s.st = .high → s.lcdWr = true
  settle_bound : s.st = .low ∨ s.st = .high → s.pcnt ≤ s.params.settle - 1
  setup_bound : s.st = .setup → s.pcnt ≤ s.params.setup - 1

/-- The inductive invariant: 10_state.md R29 for parameters as 00_scope.md R6 has them, that the bits not
yet sent are all that is left in `fsr` (40_bit_transmitter.md R66: "`fsr` is 0 again once all L bits are
shifted out"), and that a completion pulse is given only in IDLE (10_state.md R16, R30). -/
structure State.Inv (s : State) : Prop where
  params_ok : s.params.Ok
  legal : s.Legal
  fsr_drains : s.fsr <<< s.bcnt.toNat = 0
  pulse_idle : s.respValid = true → s.st = .idle

/-- `pcnt` is a value of `W_P` bits (10_state.md R17, 00_scope.md R6). -/
def State.PcntFits (s : State) : Prop := s.pcnt < 2 ^ s.params.pcntWidth

/-- In each of the next `n` ticks `rst_n` is synchronous and at 1, whatever the request port does. -/
def State.QuietReset (s : State) (n : Nat) : Prop :=
  ∀ k, k < n → (s.inputs.getD k .quiet).noReset = true

/-- At the next edge `rst_n` is 1 and every port the edge reads is synchronous. -/
abbrev State.Running (s : State) : Prop := s.synchronous = true ∧ s.sampled.rstN = true

/-- From `t`, the state right after the accepting edge, the whole frame goes out as `bits` and the
request completes with `resp`, whatever the host does with the request port (40_bit_transmitter.md R71,
R75, R76; 70_reset_and_hazards.md R125): with no reset, the frame is in progress and no pulse is given
for `1 + L·P` edges, and at the last of them chip-select rises, the pulse is given, and the recorder
holds exactly this frame and this response. -/
def State.SendsFrame (t : State) (bits : List Bool) (resp : Response) : Prop :=
  t.QuietReset (1 + bits.length * t.params.period) →
    (∃ u, run (1 + bits.length * t.params.period) t = .next u ∧
      u.st = .idle ∧ u.lcdCsN = true ∧ u.lcdWr = true ∧
      u.respValid = true ∧ u.respIgnored = resp.ignored ∧ u.respData = resp.data) ∧
    record (1 + bits.length * t.params.period) t (.startAt t) =
      { csN := true, wr := true, bits := [], frames := [bits], responses := [resp]
        strayRises := 0, glitches := 0 } ∧
    ∀ m, m < 1 + bits.length * t.params.period →
      ∃ v, run m t = .next v ∧ v.st ≠ .idle ∧ v.lcdCsN = false ∧ v.respValid = false

end Sys2Proof.Machine
end

