-- ==== Sys2Proof/Certificates/Slice0/Obligations.lean ====
section
/-! DEFINITION. The statements about the model, for the provers. Each docstring names the rule of spec/ a
statement formalises, or says that it rests on a choice of the model. -/

open Sys2Proof Sys2Proof.Machine

/-! ## Encoding -/

/-- 30_encoding.md R56: `Decode(w)` is total, field by field. -/
def Obligations.DecodeReadsTheFourFormats : Prop :=
  ∀ w : RequestWord,
    (decodeRequest w).isRequest = true ∧
    ((w.extractLsb' 14 2).toNat = 0 → decodeRequest w = .cmd (w.extractLsb' 0 8)) ∧
    ((w.extractLsb' 14 2).toNat = 1 →
      decodeRequest w = .write (w.extractLsb' 8 6) (w.extractLsb' 0 8)) ∧
    ((w.extractLsb' 14 2).toNat = 2 →
      decodeRequest w = .digit (w.extractLsb' 9 5) (w.getLsbD 4) (w.extractLsb' 0 4)) ∧
    ((w.extractLsb' 14 2).toNat = 3 →
      decodeRequest w = .lookup (w.getLsbD 4) (w.extractLsb' 0 4))

/-- Decoding an encoded instruction gives it back, for all six rows of the opcode table and every value
of every operand. -/
def Obligations.DecodeOfEncodeIsTheInstruction : Prop :=
  ∀ i : Instr, decode (encode i) = .ok i

/-- Encoding a decoded request word gives the word with its reserved bits cleared. -/
def Obligations.EncodeOfDecodeClearsReservedBits : Prop :=
  ∀ w : RequestWord, encode (decodeRequest w) = .request (clearReserved w)

/-- 30_encoding.md R55: words that differ only in reserved bits do the same in the machine, none stops
it, and the assembler sets no reserved bit. -/
def Obligations.ReservedBitsAreIgnored : Prop :=
  (∀ w v : RequestWord, clearReserved w = clearReserved v →
    decodeRequest w = decodeRequest v ∧
    ∀ (s : State) (p : PortInput) (rest : List PortInput),
      step { s with inputs := { p with reqWord := w } :: rest } =
        step { s with inputs := { p with reqWord := v } :: rest } ∧
      ∃ t, step { s with inputs := { p with reqWord := w } :: rest } = .next t) ∧
  ∀ (a : Asm) (w : RequestWord), assemble a = .ok w → clearReserved w = w

/-- Words written out bit by bit from the encodings of 30_encoding.md R51 to R54, R58 and R59 decode to
the instructions they stand for. -/
def Obligations.SampleWordsDecodeAsTheSpecWrites : Prop :=
  decodeTableWord 16 0b0000000000000011 = some (.cmd 0x03) ∧
  decodeTableWord 16 0b0100010010101111 = some (.write 4 0xAF) ∧
  decodeTableWord 16 0b1000001000010101 = some (.digit 1 true 5) ∧
  decodeTableWord 16 0b1100000000011000 = some (.lookup true 8) ∧
  decodeTableWord 12 0b100000000110 = some (.frameCmd 0x03) ∧
  decodeTableWord 17 0b10100010010101111 = some (.frameWrite 4 0xAF)

/-- The mode prefix tells a frame's kind and length: what a receiver accepts has one of the two prefixes
with its length, and every frame of every request is such a string and is read back as that frame. -/
def Obligations.ModePrefixTellsKindAndLength : Prop :=
  (∀ (bits : List Bool) (i : Instr), decodeFrame bits = .ok i →
    (bits.take 3 = [true, false, false] ∧ bits.length = 12 ∧ ∃ code, i = .frameCmd code) ∨
    (bits.take 3 = [true, false, true] ∧ bits.length = 17 ∧ ∃ addr data, i = .frameWrite addr data)) ∧
  ∀ (w : RequestWord) (f : Frame), f ∈ (transact w).1 →
    f.bits.length = f.len ∧
    decodeFrame f.bits =
      .ok (match f with
        | .cmd code => .frameCmd code
        | .wr addr data => .frameWrite addr data)

/-! ## Fetching a request -/

/-- A synchronous step that accepts a request is the meaning of the decoded request, on the state whose
current tick is over. This holds of the word on the port and of a word placed by `withFetchWord`, which an idle
machine with synchronous inputs and no reset accepts at the very next edge; a placed wire frame runs as
the request that sends it (the placing is the model's own, log 6 and log 10). -/
def Obligations.StepRunsTheDecodedRequest : Prop :=
  (∀ (s : State) (w : RequestWord), s.synchronous = true → s.accepts = some w →
    step s = exec (decodeRequest w) s.advance) ∧
  (∀ (s : State) (w : RequestWord),
    (s.withFetchWord 16 w.toNat).accepts = some w ∧
    step (s.withFetchWord 16 w.toNat) =
      exec (decodeRequest w) (s.withFetchWord 16 w.toNat).advance) ∧
  (∀ (s : State) (code : CommandCode),
    step (s.withFetchWord 12 (cmdFrameWord code).toNat) =
      exec (.cmd code) (s.withFetchWord 12 (cmdFrameWord code).toNat).advance) ∧
  ∀ (s : State) (addr : Address) (data : DataByte),
    step (s.withFetchWord 17 (writeFrameWord addr data).toNat) =
      exec (.write addr data) (s.withFetchWord 17 (writeFrameWord addr data).toNat).advance

/-- 10_state.md R14: `req_ready` is 1 exactly when `rst_n` is 1 and the sequencer is in IDLE, and it
does not depend on `req_valid` or `req_word`. -/
def Obligations.ReadyExactlyInIdleOutOfReset : Prop :=
  (∀ s : State, s.reqReady = true ↔ s.sampled.rstN = true ∧ s.st = .idle) ∧
  ∀ (s : State) (p : PortInput) (v : Bool) (w : RequestWord) (rest : List PortInput),
    ({ s with inputs := { p with reqValid := v, reqWord := w } :: rest } : State).reqReady =
      ({ s with inputs := p :: rest } : State).reqReady

/-- 10_state.md R15: at an edge whose ports are synchronous a request is accepted exactly when
`req_valid` and `req_ready` are both 1, and it is the word on the port; and the port is read at no other
edge: in a frame, in reset, or with `req_valid` at 0, the edge is the same for every other `req_valid`
and `req_word` that keep it so, even ones that change too close to it. -/
def Obligations.AcceptedExactlyWhenValidAndReady : Prop :=
  (∀ (s : State) (w : RequestWord), s.synchronous = true →
    (s.accepts = some w ↔
      s.sampled.rstN = true ∧ s.st = .idle ∧ s.sampled.reqValid = true ∧ s.sampled.reqWord = w) ∧
    (s.accepts.isSome = true ↔ s.sampled.reqValid = true ∧ s.reqReady = true)) ∧
  ∀ (s : State) (p q : PortInput) (rest : List PortInput),
    p.rstNStable = true → q.rstNStable = true → p.rstN = q.rstN →
    (s.st ≠ .idle ∨ p.rstN = false ∨
      (p.reqValidStable = true ∧ p.reqValid = false ∧
        q.reqValidStable = true ∧ q.reqValid = false)) →
    step { s with inputs := p :: rest } = step { s with inputs := q :: rest }

/-! ## Instructions -/

/-- The accepting edge of CMD from IDLE: the response registers take (0, code), chip-select falls and
the 12 frame bits `100 code 0` stand left-aligned in the shift register; all else is unchanged. -/
def Obligations.CmdOpensItsFrame : Prop :=
  ∀ (code : CommandCode) (s : State), s.st = .idle →
    exec (.cmd code) s =
      .next { s with
        respIgnored := false, respData := code, respValid := false
        lcdCsN := false, st := .lead, bcnt := 12, pcnt := 0
        fsr := BitVec.ofNat 17 ((0x800 + 2 * code.toNat) * 32) }

/-- The accepting edge of WRITE from IDLE: (0, data), chip-select falls and the 17 frame bits `101 addr
data` stand in the shift register, for every address; all else is unchanged. -/
def Obligations.WriteOpensItsFrame : Prop :=
  ∀ (addr : Address) (data : DataByte) (s : State), s.st = .idle →
    exec (.write addr data) s =
      .next { s with
        respIgnored := false, respData := data, respValid := false
        lcdCsN := false, st := .lead, bcnt := 17, pcnt := 0
        fsr := BitVec.ofNat 17 (0x14000 + 256 * addr.toNat + data.toNat) }

/-- The accepting edge of DIGIT from IDLE: a digit 0–9 opens the write frame of its pattern, with the
colon bit if asked for, at address 2·pos; a digit 10–15 opens none and completes at once with
(1, 0x00); all else is unchanged. -/
def Obligations.DigitOpensItsFrameOrIsIgnored : Prop :=
  ∀ (pos : Position) (colon : Bool) (d : Digit) (s : State), s.st = .idle →
    (d.toNat ≤ 9 →
      ∃ p : DataByte, segmentTable[d.toNat]? = some p ∧
        exec (.digit pos colon d) s =
          .next { s with
            respIgnored := false, respData := p ||| (if colon then 0x10 else 0x00), respValid := false
            lcdCsN := false, st := .lead, bcnt := 17, pcnt := 0
            fsr := BitVec.ofNat 17 (0x14000 + 256 * (2 * pos.toNat) +
              (p ||| (if colon then 0x10 else 0x00)).toNat) }) ∧
    (10 ≤ d.toNat →
      exec (.digit pos colon d) s =
        .next { s with respIgnored := true, respData := 0x00, respValid := true })

/-- 42_segment_encoder.md R94: LOOKUP answers at once with (0, pattern) or (1, 0x00) and changes
nothing else, in particular not `st`, `fsr`, `bcnt`, `pcnt` or the three serial pins; and a run of
LOOKUPs, one per edge, gives one response per edge. -/
def Obligations.LookupAnswersAtOnce : Prop :=
  (∀ (colon : Bool) (d : Digit) (s : State), s.st = .idle →
    (d.toNat ≤ 9 →
      ∃ p : DataByte, segmentTable[d.toNat]? = some p ∧
        exec (.lookup colon d) s =
          .next { s with respIgnored := false, respData := p ||| (if colon then 0x10 else 0x00)
                         respValid := true }) ∧
    (10 ≤ d.toNat →
      exec (.lookup colon d) s =
        .next { s with respIgnored := true, respData := 0x00, respValid := true })) ∧
  ∀ (ops : List (Bool × Digit)) (s : State), s.st = .idle →
    s.inputs = ops.map (fun x => PortInput.offer (lookupWord x.1 x.2)) →
    (record ops.length s (.startAt s)).responses =
      ops.map fun x => (transact (lookupWord x.1 x.2)).2

/-- A wire frame by itself is opened as `StartFrame` opens it: chip-select falls, its bits stand
left-aligned in the shift register, and no response is written; all else is unchanged. That a frame row
of the opcode table means this is the model's reading (log 5). -/
def Obligations.WireFramesAreOpenedByTheComposer : Prop :=
  (∀ (code : CommandCode) (s : State), s.st = .idle →
    exec (.frameCmd code) s =
      .next { s with
        respValid := false, lcdCsN := false, st := .lead, bcnt := 12, pcnt := 0
        fsr := BitVec.ofNat 17 ((0x800 + 2 * code.toNat) * 32) }) ∧
  ∀ (addr : Address) (data : DataByte) (s : State), s.st = .idle →
    exec (.frameWrite addr data) s =
      .next { s with
        respValid := false, lcdCsN := false, st := .lead, bcnt := 17, pcnt := 0
        fsr := BitVec.ofNat 17 (0x14000 + 256 * addr.toNat + data.toNat) }

/-- The frame of the six instructions: WR, DATA, the parameters and what the host will drive never
change at an accepting edge; a LOOKUP and an ignored DIGIT leave the sequencer and chip-select alone;
a wire frame leaves the response registers alone. -/
def Obligations.AcceptingEdgeChangesOnlyWhatItsRuleNames : Prop :=
  ∀ (i : Instr) (s t : State), s.st = .idle → exec i s = .next t →
    t.lcdWr = s.lcdWr ∧ t.lcdData = s.lcdData ∧
    t.params = s.params ∧ t.inputs = s.inputs ∧ t.draws = s.draws ∧
    ((∃ colon d, i = .lookup colon d) ∨ (∃ pos colon d, i = .digit pos colon d ∧ 10 ≤ d.toNat) →
      t.st = s.st ∧ t.fsr = s.fsr ∧ t.bcnt = s.bcnt ∧ t.pcnt = s.pcnt ∧ t.lcdCsN = s.lcdCsN) ∧
    (i.isRequest = false → t.respIgnored = s.respIgnored ∧ t.respData = s.respData)

/-- 41_frame_composer.md R80: CMD answers a next state at its accepting edge, its 12 bits go out within
one chip-select interval, and it completes `1 + 12·(2S+U)` edges later with (0, code). -/
def Obligations.CmdSendsItsFrameAndCompletes : Prop :=
  ∀ (code : CommandCode) (s : State), s.params.Ok → s.st = .idle →
    ∃ t, exec (.cmd code) s = .next t ∧
      t.respIgnored = false ∧ t.respData = code ∧ t.respValid = false ∧
      t.SendsFrame
        ([true, false, false] ++
          [code.getLsbD 7, code.getLsbD 6, code.getLsbD 5, code.getLsbD 4, code.getLsbD 3,
            code.getLsbD 2, code.getLsbD 1, code.getLsbD 0] ++ [false])
        ⟨false, code⟩

/-- 41_frame_composer.md R81: WRITE answers a next state at its accepting edge, its 17 bits go out
within one chip-select interval for every address, and it completes `1 + 17·(2S+U)` edges later with
(0, data). -/
def Obligations.WriteSendsItsFrameAndCompletes : Prop :=
  ∀ (addr : Address) (data : DataByte) (s : State), s.params.Ok → s.st = .idle →
    ∃ t, exec (.write addr data) s = .next t ∧
      t.respIgnored = false ∧ t.respData = data ∧ t.respValid = false ∧
      t.SendsFrame
        ([true, false, true] ++
          [addr.getLsbD 5, addr.getLsbD 4, addr.getLsbD 3, addr.getLsbD 2, addr.getLsbD 1,
            addr.getLsbD 0] ++
          [data.getLsbD 7, data.getLsbD 6, data.getLsbD 5, data.getLsbD 4, data.getLsbD 3,
            data.getLsbD 2, data.getLsbD 1, data.getLsbD 0])
        ⟨false, data⟩

/-- 42_segment_encoder.md R93: a DIGIT with a digit 0–9 sends the write frame of its pattern at the
address `{pos, 0}` and completes like a WRITE; a DIGIT with a digit 10–15, colon or not, completes at its
accepting edge with (1, 0x00), moves no pin, and stays ready. -/
def Obligations.DigitSendsItsPatternOrIsIgnored : Prop :=
  ∀ (pos : Position) (colon : Bool) (d : Digit) (s : State), s.params.Ok → s.st = .idle →
    ∃ t, exec (.digit pos colon d) s = .next t ∧
      (∀ p : DataByte, segmentPattern d colon = some p →
        t.respIgnored = false ∧ t.respData = p ∧ t.respValid = false ∧
        t.SendsFrame
          ([true, false, true] ++
            [pos.getLsbD 4, pos.getLsbD 3, pos.getLsbD 2, pos.getLsbD 1, pos.getLsbD 0, false] ++
            [p.getLsbD 7, p.getLsbD 6, p.getLsbD 5, p.getLsbD 4, p.getLsbD 3, p.getLsbD 2,
              p.getLsbD 1, p.getLsbD 0])
          ⟨false, p⟩) ∧
      (d.toNat ≤ 9 ↔ ∃ p, segmentPattern d colon = some p) ∧
      (10 ≤ d.toNat →
        t = { s with respIgnored := true, respData := 0x00, respValid := true })

/-- A wire frame opened by itself goes out with its own bits and completes at the end of the frame, with
the response registers as they stood (log 5). -/
def Obligations.WireFramesGoOutBitByBit : Prop :=
  (∀ (code : CommandCode) (s : State), s.params.Ok → s.st = .idle →
    ∃ t, exec (.frameCmd code) s = .next t ∧
      t.SendsFrame (bitsMsb (cmdFrameWord code)) ⟨s.respIgnored, s.respData⟩) ∧
  ∀ (addr : Address) (data : DataByte) (s : State), s.params.Ok → s.st = .idle →
    ∃ t, exec (.frameWrite addr data) s = .next t ∧
      t.SendsFrame (bitsMsb (writeFrameWord addr data)) ⟨s.respIgnored, s.respData⟩

/-- 20_memory.md R42: two equal requests accepted from IDLE leave the same frame in the transmitter, the
same chip-select and the same response, whatever the machine did before. -/
def Obligations.EqualRequestsFromIdleDoTheSame : Prop :=
  ∀ (i : Instr) (s s' t t' : State), i.isRequest = true →
    s.Legal → s'.Legal → s.st = .idle → s'.st = .idle →
    exec i s = .next t → exec i s' = .next t' →
    t.st = t'.st ∧ t.fsr = t'.fsr ∧ t.bcnt = t'.bcnt ∧ t.pcnt = t'.pcnt ∧
    t.lcdCsN = t'.lcdCsN ∧ t.lcdWr = t'.lcdWr ∧
    t.respValid = t'.respValid ∧ t.respIgnored = t'.respIgnored ∧ t.respData = t'.respData

/-! ## Operands and the flag -/

/-- 42_segment_encoder.md R88: the ten patterns, and none for a digit of 10 or more. -/
def Obligations.SegmentTableHoldsTheTenPatterns : Prop :=
  lutRead 0 = some 0xAF#8 ∧ lutRead 1 = some 0xA0#8 ∧ lutRead 2 = some 0xCB#8 ∧
  lutRead 3 = some 0xE9#8 ∧ lutRead 4 = some 0xE4#8 ∧ lutRead 5 = some 0x6D#8 ∧
  lutRead 6 = some 0x6F#8 ∧ lutRead 7 = some 0xA8#8 ∧ lutRead 8 = some 0xEF#8 ∧
  lutRead 9 = some 0xED#8 ∧
  (∀ d : Digit, 10 ≤ d.toNat → lutRead d = none) ∧
  segmentTable.length = 10 ∧
  litSegments 0xAF = [.b, .c, .a, .f, .e, .d] ∧ litSegments 0xA0 = [.b, .c] ∧
  litSegments 0xCB = [.b, .g, .a, .e, .d] ∧ litSegments 0xE9 = [.b, .g, .c, .a, .d] ∧
  litSegments 0xE4 = [.b, .g, .c, .f] ∧ litSegments 0x6D = [.g, .c, .a, .f, .d] ∧
  litSegments 0x6F = [.g, .c, .a, .f, .e, .d] ∧ litSegments 0xA8 = [.b, .c, .a] ∧
  litSegments 0xEF = [.b, .g, .c, .a, .f, .e, .d] ∧ litSegments 0xED = [.b, .g, .c, .a, .f, .d]

/-- 42_segment_encoder.md R90: with the colon the pattern is the base pattern OR 0x10, without it the
base pattern. -/
def Obligations.ColonOverlaySetsBitFour : Prop :=
  ∀ d : Digit, d.toNat ≤ 9 →
    ∃ p : DataByte, lutRead d = some p ∧
      segmentPattern d true = some (p ||| 0x10) ∧ segmentPattern d false = some p

/-- The colon bit is clear in every base pattern, so the overlay adds exactly 0x10, and digit and colon
can be recovered from a pattern. -/
def Obligations.PatternsDetermineDigitAndColon : Prop :=
  (∀ (d : Digit) (p : DataByte), segmentPattern d false = some p →
    p.getLsbD 4 = false ∧ segmentPattern d true = some (p + 0x10)) ∧
  ∀ (d e : Digit) (k l : Bool) (p : DataByte),
    segmentPattern d k = some p → segmentPattern e l = some p → d = e ∧ k = l

/-- 42_segment_encoder.md R95: the DIGIT address is `2·pos`, always even, and for an unbounded integer
position the six low bits of twice it. -/
def Obligations.DigitAddressIsTwiceThePosition : Prop :=
  (∀ pos : Position, (digitAddress pos).toNat = 2 * pos.toNat ∧ (digitAddress pos).getLsbD 0 = false) ∧
  ∀ n : Int, digitAddress (BitVec.ofInt 5 n) = BitVec.ofInt 6 (n * 2)

/-- 10_state.md R26: `resp_ignored` is 0 after reset; every acceptance writes it, 1 exactly for a DIGIT
or LOOKUP whose digit is 10–15; no other edge without reset changes it; and no rule reads it: two
machines that differ in nothing else still differ in nothing else after an edge. -/
def Obligations.IgnoredFlagIsWrittenOnlyAtAcceptance : Prop :=
  State.reset.respIgnored = false ∧
  (∀ (s : State) (w : RequestWord), s.synchronous = true → s.accepts = some w →
    ∃ t, step s = .next t ∧
      (t.respIgnored = true ↔
        2 ≤ (w.extractLsb' 14 2).toNat ∧ 10 ≤ (w.extractLsb' 0 4).toNat)) ∧
  (∀ s t : State, s.Running → s.accepts = none → step s = .next t →
    t.respIgnored = s.respIgnored) ∧
  ∀ (s t : State) (b : Bool), step s = .next t →
    ∃ t', step { s with respIgnored := b } = .next t' ∧
      { t' with respIgnored := t.respIgnored } = t

/-! ## The sequencer -/

/-- 40_bit_transmitter.md R66: `Load(f, L)` left-aligns the frame in `fsr` above zeros, so that `fsr` is
0 once all L bits are shifted out, sets `bcnt` to L, `pcnt` to 0 and `st` to LEAD, and writes nothing
else; and no edge enters LEAD but the edge in IDLE that accepts a request with a frame. -/
def Obligations.LoadPutsTheFrameLeftAligned : Prop :=
  (∀ (L : Nat) (f : BitVec L) (s : State), 1 ≤ L → L ≤ 17 →
    s.load f = { s with fsr := (s.load f).fsr, bcnt := BitVec.ofNat 5 L, pcnt := 0, st := .lead } ∧
    (s.load f).bcnt.toNat = L ∧
    (∀ k, k < 17 → (s.load f).fsr.getLsbD (16 - k) = (decide (k < L) && f.getLsbD (L - 1 - k))) ∧
    (s.load f).fsr <<< L = 0) ∧
  ∀ s t : State, s.synchronous = true → step s = .next t → t.st = .lead →
    s.st = .idle ∧ ∃ w, s.accepts = some w ∧ (transact w).1 ≠ []

/-- 40_bit_transmitter.md R67: LEAD lasts one tick; WR falls and the settle phase begins. -/
def Obligations.LeadLowersWrAfterOneTick : Prop :=
  ∀ s : State, s.Running → s.st = .lead →
    step s = .next { s.advance with
      lcdWr := false, pcnt := s.params.settle - 1, st := .low, respValid := false }

/-- 40_bit_transmitter.md R68: a LOW phase entered with `pcnt = S − 1` lasts exactly S ticks with DATA
unchanged, and the edge that ends it drives `fsr[16]` onto DATA and enters SETUP; a single edge counts
down or ends the phase. -/
def Obligations.LowPhaseSettlesThenDrivesTheBit : Prop :=
  (∀ s : State, s.Running → s.st = .low →
    (s.pcnt = 0 → step s = .next { s.advance with
      lcdData := s.fsr.getLsbD 16, pcnt := s.params.setup - 1, st := .setup, respValid := false }) ∧
    (s.pcnt ≠ 0 → step s = .next { s.advance with pcnt := s.pcnt - 1, respValid := false })) ∧
  ∀ s : State, s.params.Ok → s.st = .low → s.pcnt = s.params.settle - 1 →
    s.QuietReset s.params.settle →
    (∀ m, m < s.params.settle → ∃ v, run m s = .next v ∧
      v.st = .low ∧ v.lcdData = s.lcdData ∧ v.lcdWr = s.lcdWr ∧ v.lcdCsN = s.lcdCsN) ∧
    ∃ u, run s.params.settle s = .next u ∧
      u.st = .setup ∧ u.lcdData = s.fsr.getLsbD 16 ∧ u.lcdWr = s.lcdWr ∧
      u.pcnt = s.params.setup - 1

/-- 40_bit_transmitter.md R69: a SETUP phase entered with `pcnt = U − 1` lasts exactly U ticks, DATA
does not change in it nor at the edge that leaves it, and that edge raises WR and enters HIGH; a single
edge counts down or ends the phase. -/
def Obligations.SetupPhaseHoldsDataThenRaisesWr : Prop :=
  (∀ s : State, s.Running → s.st = .setup →
    (s.pcnt = 0 → step s = .next { s.advance with
      lcdWr := true, pcnt := s.params.settle - 1, st := .high, respValid := false }) ∧
    (s.pcnt ≠ 0 → step s = .next { s.advance with pcnt := s.pcnt - 1, respValid := false })) ∧
  ∀ s : State, s.params.Ok → s.st = .setup → s.pcnt = s.params.setup - 1 →
    s.QuietReset s.params.setup →
    (∀ m, m < s.params.setup → ∃ v, run m s = .next v ∧
      v.st = .setup ∧ v.lcdData = s.lcdData ∧ v.lcdWr = s.lcdWr ∧ v.lcdCsN = s.lcdCsN) ∧
    ∃ u, run s.params.setup s = .next u ∧
      u.st = .high ∧ u.lcdData = s.lcdData ∧ u.lcdWr = true ∧ u.pcnt = s.params.settle - 1

/-- 40_bit_transmitter.md R70: a HIGH phase entered with `pcnt = S − 1` lasts exactly S ticks, and the
edge that ends it shifts `fsr`, counts the bit, and either begins the next bit with WR low or ends the
frame: chip-select rises, the sequencer is idle, the request completes; a single edge counts down or ends
the phase. -/
def Obligations.HighPhaseHoldsThenEndsTheBit : Prop :=
  (∀ s : State, s.Running → s.st = .high → 1 ≤ s.bcnt.toNat →
    (s.pcnt ≠ 0 → step s = .next { s.advance with pcnt := s.pcnt - 1, respValid := false }) ∧
    (s.pcnt = 0 → 1 < s.bcnt.toNat → step s = .next { s.advance with
      fsr := s.fsr <<< 1, bcnt := BitVec.ofNat 5 (s.bcnt.toNat - 1), lcdWr := false
      pcnt := s.params.settle - 1, st := .low, respValid := false }) ∧
    (s.pcnt = 0 → s.bcnt.toNat = 1 → step s = .next { s.advance with
      fsr := s.fsr <<< 1, bcnt := 0, lcdCsN := true, st := .idle, respValid := true })) ∧
  ∀ s : State, s.params.Ok → s.st = .high → s.pcnt = s.params.settle - 1 → 1 ≤ s.bcnt.toNat →
    s.QuietReset s.params.settle →
    (∀ m, m < s.params.settle → ∃ v, run m s = .next v ∧
      v.st = .high ∧ v.lcdData = s.lcdData ∧ v.lcdWr = s.lcdWr ∧ v.lcdCsN = s.lcdCsN) ∧
    ∃ u, run s.params.settle s = .next u ∧ u.lcdData = s.lcdData ∧
      (1 < s.bcnt.toNat → u.st = .low ∧ u.lcdWr = false ∧ u.respValid = false) ∧
      (s.bcnt.toNat = 1 →
        u.st = .idle ∧ u.lcdCsN = true ∧ u.lcdWr = s.lcdWr ∧ u.pcnt = 0 ∧ u.respValid = true)

/-- 10_state.md R30: what an edge does, arm by arm, the ports it reads being synchronous. In IDLE with nothing
offered only `resp_valid` changes; outside IDLE the request port plays no part: the arms are functions of
the state whose current tick is over. -/
def Obligations.EveryEdgeIsTheArmOfItsState : Prop :=
  ∀ s : State, s.synchronous = true →
    (s.sampled.rstN = false → step s = .next s.advance.resetValues) ∧
    (s.sampled.rstN = true →
      (s.st = .idle → s.sampled.reqValid = true →
        step s = exec (decodeRequest s.sampled.reqWord) s.advance) ∧
      (s.st = .idle → s.sampled.reqValid = false →
        step s = .next { s.advance with respValid := false }) ∧
      (s.st = .lead → step s = .next s.advance.stepLead) ∧
      (s.st = .low → step s = .next s.advance.stepLow) ∧
      (s.st = .setup → step s = .next s.advance.stepSetup) ∧
      (s.st = .high → step s = .next s.advance.stepHigh))

/-- Every pin edge of a frame of any length 1 to 17 opened by the composer, tick by tick: `m = 1 + k·P
+ j` edges after the accepting edge, bit `k` is in LOW for `j < S`, in SETUP for the next U ticks and in
HIGH for the last S; WR is high in HIGH only, DATA takes the bit when LOW ends, and at `1 + L·P` edges
chip-select rises and the request completes. -/
def Obligations.FrameFollowsTheTickSchedule : Prop :=
  ∀ (L : Nat) (f : BitVec L) (s : State), 1 ≤ L → L ≤ 17 → s.params.Ok → s.st = .idle →
    ((s.startFrame f).finish false).QuietReset (1 + L * s.params.period) →
    (∀ k j, k < L → j < s.params.period →
      ∃ u, run (1 + k * s.params.period + j) ((s.startFrame f).finish false) = .next u ∧
        u.lcdCsN = false ∧ u.respValid = false ∧
        u.st = (if j < s.params.settle then .low
          else if j < s.params.settle + s.params.setup then .setup else .high) ∧
        u.lcdWr = decide (s.params.settle + s.params.setup ≤ j) ∧
        u.lcdData = (if s.params.settle ≤ j then f.getLsbD (L - 1 - k)
          else if k = 0 then s.lcdData else f.getLsbD (L - k)) ∧
        u.bcnt.toNat = L - k) ∧
    ∃ u, run (1 + L * s.params.period) ((s.startFrame f).finish false) = .next u ∧
      u.st = .idle ∧ u.lcdCsN = true ∧ u.lcdWr = true ∧ u.lcdData = f.getLsbD 0 ∧
      u.fsr = 0 ∧ u.bcnt = 0 ∧ u.pcnt = 0 ∧ u.respValid = true

/-- 40_bit_transmitter.md R65: `Transmit(f, L)`, for every L from 1 to 17: what is sampled at the WR
rising edges of the one chip-select interval is `f[L−1]`, ..., `f[0]`, one bit per WR cycle. -/
def Obligations.TransmitSendsTheBitsMsbFirst : Prop :=
  ∀ (L : Nat) (f : BitVec L) (s : State), 1 ≤ L → L ≤ 17 → s.params.Ok → s.st = .idle →
    ((s.startFrame f).finish false).SendsFrame
      ((List.range L).map fun k => f.getLsbD (L - 1 - k)) ⟨s.respIgnored, s.respData⟩

/-- From every state that keeps the invariant, a frame in progress reaches IDLE, within the ticks of a
whole write frame, whatever the host does with the request port: nothing stalls. -/
def Obligations.FrameInProgressAlwaysEnds : Prop :=
  ∀ s : State, s.Inv → s.st ≠ .idle → s.QuietReset (1 + 17 * s.params.period) →
    ∃ n u, n ≤ 1 + 17 * s.params.period ∧ run n s = .next u ∧
      u.st = .idle ∧ u.lcdCsN = true ∧ u.respValid = true

/-! ## Responses -/

/-- The completion pulse is set at an edge without reset exactly when the edge accepts a request that
sends no frame, or ends the last bit of a frame. -/
def Obligations.PulseExactlyAtCompletion : Prop :=
  ∀ s t : State, s.Inv → s.Running → step s = .next t →
    (t.respValid = true ↔
      (∃ w, s.accepts = some w ∧ (transact w).1 = []) ∨
      (s.st = .high ∧ s.pcnt = 0 ∧ s.bcnt = 1))

/-- 70_reset_and_hazards.md R118: the response registers describe the request accepted last: every
acceptance writes the response of the transaction level, and without an acceptance and without reset
they keep their values. -/
def Obligations.ResponseLastsUntilTheNextAcceptance : Prop :=
  ∀ s t : State, s.Running → step s = .next t →
    (∀ w, s.accepts = some w →
      (⟨t.respIgnored, t.respData⟩ : Response) = (transact w).2) ∧
    (s.accepts = none → t.respIgnored = s.respIgnored ∧ t.respData = s.respData)

/-! ## Reset, power-up and inputs that are not synchronous -/

/-- 10_state.md R17: the reset value of every element. -/
def Obligations.ResetStateHoldsTheResetValues : Prop :=
  State.reset.st = .idle ∧ State.reset.fsr.toNat = 0 ∧ State.reset.bcnt.toNat = 0 ∧
  State.reset.pcnt = 0 ∧ State.reset.lcdCsN = true ∧ State.reset.lcdWr = true ∧
  State.reset.lcdData = false ∧ State.reset.respValid = false ∧
  State.reset.respIgnored = false ∧ State.reset.respData.toNat = 0

/-- 70_reset_and_hazards.md R111: a reset edge writes every element with its reset value, whatever the
state and the other inputs are; `req_ready` is 0 and nothing is accepted. -/
def Obligations.ResetEdgeWritesEveryResetValue : Prop :=
  ∀ s : State, s.sampled.rstNStable = true → s.sampled.rstN = false →
    s.reqReady = false ∧ s.accepts = none ∧
    step s = .next { s.advance with
      st := .idle, fsr := 0, bcnt := 0, pcnt := 0
      lcdCsN := true, lcdWr := true, lcdData := false
      respValid := false, respIgnored := false, respData := 0 }

/-- After a reset edge `req_ready` equals `rst_n`, and the first edge with `rst_n` at 1 can accept. -/
def Obligations.FirstEdgeAfterResetCanAccept : Prop :=
  ∀ s t : State, s.sampled.rstNStable = true → s.sampled.rstN = false → step s = .next t →
    t.reqReady = t.sampled.rstN ∧
    ∀ w, t.sampled = .offer w → t.accepts = some w

/-- A reset edge in a frame ends it for good: no pulse is given for it, neither at that edge nor at any
later one before another request is accepted. -/
def Obligations.AbortedFrameNeverAnswers : Prop :=
  ∀ (s t : State) (n : Nat), s.sampled.rstNStable = true → s.sampled.rstN = false →
    step s = .next t →
    (∀ k, k < n → (t.inputs.getD k .quiet).rstNStable = true ∧
      ((t.inputs.getD k .quiet).rstN = false ∨
        ((t.inputs.getD k .quiet).reqValidStable = true ∧
          (t.inputs.getD k .quiet).reqValid = false))) →
    ∃ u, run n t = .next u ∧ u.respValid = false ∧ u.st = .idle ∧ u.lcdCsN = true

/-- A reset edge raises WR, together with chip-select, exactly when it falls in LOW or SETUP, and it
drives DATA to 0; the recorder marks the event apart from a sampled bit (log 11). -/
def Obligations.ResetRaisesWrOnlyInLowOrSetup : Prop :=
  ∀ s t : State, s.Inv → s.sampled.rstNStable = true → s.sampled.rstN = false → step s = .next t →
    t.lcdCsN = true ∧ t.lcdWr = true ∧ t.lcdData = false ∧
    ((s.lcdWr = false ∧ t.lcdWr = true) ↔ s.st = .low ∨ s.st = .setup) ∧
    ((Recorder.startAt s).observe t).glitches = (if s.st = .low ∨ s.st = .setup then 1 else 0) ∧
    ((Recorder.startAt s).observe t).strayRises = 0

/-- Nothing that stood in the machine before a reset edge, at power-up or later, can be told after it: any
two machines with the same parameters and the same host do the same at it. A machine that powers up
unspecified is after its first reset edge the machine that every run starts from. -/
def Obligations.ResetForgetsWhatWasBefore : Prop :=
  (∀ s s' : State, s.params = s'.params → s.inputs = s'.inputs → s.draws = s'.draws →
    s.sampled.rstNStable = true → s.sampled.rstN = false → step s = step s') ∧
  ∀ (p : Params) (rest : List PortInput),
    step (State.powerUp p (.resetLow :: rest)) = .next { State.started p rest with draws := 1 }

/-- An edge that reads a port changing too close to it ends in a next state in which exactly the elements
that the edge may write hold free values, `pcnt` one of its width, and nothing else changes. With `rst_n`
unstable these are all ten. With the request port unstable in IDLE they are the eight that an accepting
edge writes, or for a word that opens no frame the three response registers; WR and DATA keep their
values. Whether such an edge accepts is free too. The form of the free values is the model's (log 7,
log 15). -/
def Obligations.UnstableInputsFreeWhatTheEdgeMayWrite : Prop :=
  (∀ s : State, s.sampled.rstNStable = false →
    step s = .next { s.advance with
      st := Config.freeSt s.draws, fsr := Config.freeFsr s.draws, bcnt := Config.freeBcnt s.draws
      pcnt := Config.freePcnt s.draws % 2 ^ s.params.pcntWidth
      lcdCsN := Config.freeLcdCsN s.draws, lcdWr := Config.freeLcdWr s.draws
      lcdData := Config.freeLcdData s.draws
      respValid := Config.freeRespValid s.draws, respIgnored := Config.freeRespIgnored s.draws
      respData := Config.freeRespData s.draws, draws := s.draws + 1 }) ∧
  ∀ s : State, s.sampled.noReset = true → s.st = .idle →
    (s.sampled.reqValidStable = false ∧
        (s.sampled.reqWordStable = false ∨ (transact s.sampled.reqWord).1 ≠ []) ∨
      s.sampled.reqValidStable = true ∧ s.sampled.reqValid = true ∧
        s.sampled.reqWordStable = false →
      step s = .next { s.advance with
        st := Config.freeSt s.draws, fsr := Config.freeFsr s.draws, bcnt := Config.freeBcnt s.draws
        pcnt := Config.freePcnt s.draws % 2 ^ s.params.pcntWidth
        lcdCsN := Config.freeLcdCsN s.draws
        respValid := Config.freeRespValid s.draws, respIgnored := Config.freeRespIgnored s.draws
        respData := Config.freeRespData s.draws, draws := s.draws + 1 }) ∧
    (s.sampled.reqValidStable = false ∧ s.sampled.reqWordStable = true ∧
        (transact s.sampled.reqWord).1 = [] →
      step s = .next { s.advance with
        respValid := Config.freeRespValid s.draws, respIgnored := Config.freeRespIgnored s.draws
        respData := Config.freeRespData s.draws, draws := s.draws + 1 }) ∧
    (s.sampled.reqValidStable = false ∧ s.sampled.reqWordStable = true →
      s.accepts =
        if Config.freeReqValid s.draws then some s.sampled.reqWord else none)

/-! ## Invariants and whole-machine rules -/

/-- The reset state meets the invariant (10_state.md R29 with what makes it inductive). -/
def Obligations.ResetStateMeetsTheInvariant : Prop :=
  State.reset.Inv ∧ State.reset.PcntFits

/-- A reset edge, from any state whatever, leads to a state that meets the invariant. -/
def Obligations.ResetEdgeEstablishesTheInvariant : Prop :=
  ∀ s t : State, s.params.Ok → s.sampled.rstNStable = true → s.sampled.rstN = false →
    step s = .next t → t.Inv

/-- Every edge that reads synchronous ports, reset or not, keeps the invariant: in IDLE the transmitter is
empty with CS and WR high, in a frame CS is low and 1 to 17 bits are left, WR is low exactly in LOW and
SETUP, and each phase counter is within its phase. -/
def Obligations.EveryEdgeKeepsTheInvariant : Prop :=
  ∀ s t : State, s.Inv → s.synchronous = true → step s = .next t → t.Inv

/-- Every edge at all, also one that reads a port changing too close to it, leaves in `pcnt` a value of `W_P`
bits and the build parameters as they were. -/
def Obligations.PcntAlwaysFitsItsWidth : Prop :=
  ∀ s t : State, s.PcntFits → step s = .next t → t.PcntFits ∧ t.params = s.params

/-- 60_exceptions.md R97: no step faults or refuses, and every word has a defined meaning wherever a
request can be accepted, in IDLE. -/
def Obligations.EveryEdgeAnswersANextState : Prop :=
  (∀ s : State, ∃ t, step s = .next t) ∧
  ∀ (w : RequestWord) (s : State), s.st = .idle → ∃ t, exec (decodeRequest w) s = .next t

/-- WR changes only within a chip-select interval, exclusive at both ends, and rests high outside it,
reset apart. -/
def Obligations.WrMovesOnlyWhileSelected : Prop :=
  ∀ s t : State, s.Inv → s.Running → step s = .next t →
    (t.lcdWr ≠ s.lcdWr → s.lcdCsN = false ∧ t.lcdCsN = false) ∧
    (t.lcdCsN = true → t.lcdWr = true)

/-- DATA is written only at the edge that ends a LOW phase, reset apart, and WR does not move there. -/
def Obligations.DataMovesOnlyWhenLowEnds : Prop :=
  ∀ s t : State, s.Running → step s = .next t → t.lcdData ≠ s.lcdData →
    s.st = .low ∧ s.pcnt = 0 ∧ t.lcdData = s.fsr.getLsbD 16 ∧ t.lcdWr = s.lcdWr

/-- Chip-select falls exactly at an edge that accepts a request with a frame and rises, without reset,
exactly at the edge that gives that request's pulse. -/
def Obligations.ChipSelectBracketsTheFrame : Prop :=
  ∀ s t : State, s.Inv → s.Running → step s = .next t →
    ((s.lcdCsN = true ∧ t.lcdCsN = false) ↔ ∃ w, s.accepts = some w ∧ (transact w).1 ≠ []) ∧
    ((s.lcdCsN = false ∧ t.lcdCsN = true) ↔ s.st ≠ .idle ∧ t.respValid = true)

/-! ## The transaction level -/

/-- An accepting edge does what `Exec(w)` of the transaction level says: the response registers hold its
response; if it has a frame, exactly that frame stands in the transmitter and chip-select is low; if it
has none, the request is complete and no pin has moved. -/
def Obligations.AcceptingEdgeMatchesTheTransaction : Prop :=
  ∀ (s : State) (w : RequestWord), s.Inv → s.synchronous = true → s.accepts = some w →
    ∃ t, step s = .next t ∧
      (⟨t.respIgnored, t.respData⟩ : Response) = (transact w).2 ∧
      ((transact w).1 = [] ∧ t.respValid = true ∧ t.st = .idle ∧
          t.lcdCsN = s.lcdCsN ∧ t.lcdWr = s.lcdWr ∧ t.lcdData = s.lcdData ∨
        ∃ f, (transact w).1 = [f] ∧ t.respValid = false ∧ t.st = .lead ∧ t.lcdCsN = false ∧
          t.bcnt.toNat = f.len ∧
          bitsMsb t.fsr = f.bits ++ List.replicate (17 - f.len) false)

/-- The refinement that lets claims be stated through `Exec`: in every run from a reset edge with no
further reset and any host behaviour whatever, that ends in IDLE, the chip-select intervals hold exactly
the frames of the accepted requests in order, bit for bit, the responses are exactly theirs in order, and
WR never rises outside an interval. -/
def Obligations.WireShowsExactlyTheAcceptedTransactions : Prop :=
  ∀ (p : Params) (ins : List PortInput) (u : State), p.Ok →
    (∀ x, x ∈ ins → x.running = true) →
    run ins.length (State.started p ins) = .next u → u.st = .idle →
    record ins.length (State.started p ins) (.startAt (State.started p ins)) =
      { csN := true, wr := true, bits := []
        frames := (acceptedWords ins.length (State.started p ins)).flatMap fun w =>
          (transact w).1.map Frame.bits
        responses := (acceptedWords ins.length (State.started p ins)).map fun w => (transact w).2
        strayRises := 0, glitches := 0 }

/-- A host that offers any sequence of requests back to back has each accepted one edge after the one
before it completes: the last completes at edge `Σ (1 + Lᵢ·P) + (n − 1)`, where a request without a
frame takes no tick but its own edge. -/
def Obligations.BackToBackRequestsTakeTheirLatencies : Prop :=
  ∀ (p : Params) (ws : List RequestWord), p.Ok → ws ≠ [] →
    (backToBack p ws).length = (ws.map (latency p)).sum + ws.length ∧
    acceptedWords (backToBack p ws).length (State.started p (backToBack p ws)) = ws ∧
    (∃ u, run (backToBack p ws).length (State.started p (backToBack p ws)) = .next u ∧
      u.st = .idle ∧ u.respValid = true) ∧
    ∀ w v : RequestWord,
      latency p w = (match (transact w).1 with | [] => 0 | f :: _ => 1 + f.len * p.period) ∧
      acceptedWords (latency p w + 1) (State.started p (backToBack p [w, v])) = [w] ∧
      acceptedWords (latency p w + 2) (State.started p (backToBack p [w, v])) = [w, v]

/-! ## The assembler and the host macros -/

/-- The assembler builds the word of a statement whose operands are in range, and refuses every other
statement by naming the operand. -/
def Obligations.AssemblerRefusesOperandsOutOfRange : Prop :=
  (∀ code, assemble (.cmd code) =
    if code ≤ 255 then .ok (BitVec.ofNat 16 code) else .error .codeRange) ∧
  (∀ addr data, assemble (.write addr data) =
    if addr ≤ 63 then
      if data ≤ 255 then .ok (BitVec.ofNat 16 (0x4000 + 256 * addr + data)) else .error .dataRange
    else .error .addrRange) ∧
  (∀ pos dg colon, assemble (.digit pos dg colon) =
    if pos ≤ 31 then
      if dg ≤ 15 then .ok (BitVec.ofNat 16 (0x8000 + 512 * pos + (if colon then 16 else 0) + dg))
      else .error .digitRange
    else .error .posRange) ∧
  ∀ dg colon, assemble (.lookup dg colon) =
    if dg ≤ 15 then .ok (BitVec.ofNat 16 (0xC000 + (if colon then 16 else 0) + dg))
    else .error .digitRange

/-- 30_encoding.md R63: the seven pseudo-instructions' words. -/
def Obligations.PseudoInstructionsAreTheSevenCommands : Prop :=
  assemble (.pseudo .sysDis) = .ok 0x0000#16 ∧ assemble (.pseudo .sysDis) = assemble (.cmd 0x00) ∧
  assemble (.pseudo .sysEn) = .ok 0x0001#16 ∧ assemble (.pseudo .sysEn) = assemble (.cmd 0x01) ∧
  assemble (.pseudo .lcdOff) = .ok 0x0002#16 ∧ assemble (.pseudo .lcdOff) = assemble (.cmd 0x02) ∧
  assemble (.pseudo .lcdOn) = .ok 0x0003#16 ∧ assemble (.pseudo .lcdOn) = assemble (.cmd 0x03) ∧
  assemble (.pseudo .bias13Com4) = .ok 0x0028#16 ∧
  assemble (.pseudo .bias13Com4) = assemble (.cmd 0x28) ∧
  assemble (.pseudo .rcInt) = .ok 0x0018#16 ∧ assemble (.pseudo .rcInt) = assemble (.cmd 0x18) ∧
  assemble (.pseudo .wdtDis) = .ok 0x0006#16 ∧ assemble (.pseudo .wdtDis) = assemble (.cmd 0x06)

/-- SHOWDIGIT sends one write frame at the six low bits of twice the position, for any integer position,
when the digit is 0–9, and no frame for any other integer digit. -/
def Obligations.ShowDigitSendsTwiceThePositionOrNothing : Prop :=
  ∀ (p d : Int) (colon : Bool),
    (0 ≤ d ∧ d ≤ 9 → ∃ pattern, segmentPattern (BitVec.ofInt 4 d) colon = some pattern ∧
      (HostMacro.showDigit p d colon).frames = [.wr (BitVec.ofInt 6 (p * 2)) pattern]) ∧
    (d < 0 ∨ 9 < d → (HostMacro.showDigit p d colon).frames = [])

/-- SHOWNUM clears the 16 even addresses, in increasing order, and then shows the tens digit at position
0, if there is one, and the ones digit at position 1; a number outside 0–99 leaves the display
cleared. -/
def Obligations.ShowNumClearsThenShowsTheDigits : Prop :=
  HostMacro.clear.frames = ((List.range 16).map fun i => .wr (BitVec.ofNat 6 (2 * i)) 0x00) ∧
  ∀ n : Int,
    (n < 0 ∨ 99 < n → (HostMacro.showNum n).frames = HostMacro.clear.frames) ∧
    (0 ≤ n ∧ n ≤ 9 → ∃ p, segmentPattern (BitVec.ofInt 4 n) false = some p ∧
      (HostMacro.showNum n).frames = HostMacro.clear.frames ++ [.wr 2 p]) ∧
    (10 ≤ n ∧ n ≤ 99 → ∃ p q, segmentPattern (BitVec.ofInt 4 (n / 10)) false = some p ∧
      segmentPattern (BitVec.ofInt 4 (n % 10)) false = some q ∧
      (HostMacro.showNum n).frames = HostMacro.clear.frames ++ [.wr 0 p, .wr 2 q])
end

