-- ==== Sys2Proof/Laws/Decode.lean ====
section
/-! SUPPORT. Small lemmas of the decoder, the encoder and the segment encoder's operands. -/

namespace Sys2Proof

@[simp] theorem bitsMsb_length {n : Nat} (v : BitVec n) : (bitsMsb v).length = n := by
  simp [bitsMsb]

theorem bitsMsb_getElem {n : Nat} (v : BitVec n) (k : Nat) (h : k < (bitsMsb v).length) :
    (bitsMsb v)[k] = v.getMsbD k := by
  simp [bitsMsb]

/-- A request word decodes to a request, never to a wire frame. -/
theorem decodeRequest_isRequest (w : RequestWord) : (decodeRequest w).isRequest = true := by
  unfold decodeRequest
  split_ifs <;> rfl

/-- What carries an instruction is the encoded request itself, for a request. -/
theorem encode_eq_carrierWord {i : Instr} (h : i.isRequest = true) :
    encode i = .request (carrierWord i) := by
  cases i with
  | cmd _ => rfl
  | write _ _ => rfl
  | digit _ _ _ => rfl
  | lookup _ _ => rfl
  | frameCmd _ => cases h
  | frameWrite _ _ => cases h

/-! ### The words as numbers -/

theorem cmdWord_toNat (code : CommandCode) : (cmdWord code).toNat = code.toNat := by
  revert code; decide

theorem writeWord_toNat (addr : Address) (data : DataByte) :
    (writeWord addr data).toNat = 0x4000 + 256 * addr.toNat + data.toNat := by
  have ha := addr.isLt
  have hd := data.isLt
  rw [writeWord, BitVec.toNat_append, BitVec.toNat_append,
    ← Nat.shiftLeft_add_eq_or_of_lt hd, ← Nat.shiftLeft_add_eq_or_of_lt ha]
  simp only [Nat.shiftLeft_eq, BitVec.toNat_ofNat]
  omega

theorem digitWord_toNat (pos : Position) (colon : Bool) (dg : Digit) :
    (digitWord pos colon dg).toNat =
      0x8000 + 512 * pos.toNat + 16 * colon.toNat + dg.toNat := by
  have hp := pos.isLt
  have hd := dg.isLt
  have hk : (BitVec.ofBool colon).toNat = colon.toNat := by cases colon <;> rfl
  rw [digitWord, BitVec.toNat_append, BitVec.toNat_append, BitVec.toNat_append,
    BitVec.toNat_append, ← Nat.shiftLeft_add_eq_or_of_lt hd,
    ← Nat.shiftLeft_add_eq_or_of_lt (BitVec.ofBool colon).isLt,
    ← Nat.shiftLeft_add_eq_or_of_lt (0#4).isLt, ← Nat.shiftLeft_add_eq_or_of_lt hp, hk]
  simp only [Nat.shiftLeft_eq, BitVec.toNat_ofNat]
  omega

theorem lookupWord_toNat (colon : Bool) (dg : Digit) :
    (lookupWord colon dg).toNat = 0xC000 + 16 * colon.toNat + dg.toNat := by
  revert colon dg; decide

theorem cmdFrameWord_toNat (code : CommandCode) :
    (cmdFrameWord code).toNat = 0x800 + 2 * code.toNat := by
  revert code; decide

theorem writeFrameWord_toNat (addr : Address) (data : DataByte) :
    (writeFrameWord addr data).toNat = 0x14000 + 256 * addr.toNat + data.toNat := by
  have ha := addr.isLt
  have hd := data.isLt
  rw [writeFrameWord, BitVec.toNat_append, BitVec.toNat_append,
    ← Nat.shiftLeft_add_eq_or_of_lt hd, ← Nat.shiftLeft_add_eq_or_of_lt ha]
  simp only [Nat.shiftLeft_eq, BitVec.toNat_ofNat]
  omega

/-- Reading a field as a number. -/
theorem extractLsb_toNat_eq {n : Nat} (w : BitVec n) (start len : Nat) :
    (w.extractLsb' start len).toNat = w.toNat / 2 ^ start % 2 ^ len := by
  rw [BitVec.extractLsb'_toNat, Nat.shiftRight_eq_div_pow]

/-! ### Bit strings -/

/-- One more bit. -/
theorem bitsValue_append_single (bits : List Bool) (b : Bool) :
    bitsValue (bits ++ [b]) = 2 * bitsValue bits + b.toNat := by
  simp [bitsValue, List.foldl_append]

/-- The bits of a value, most significant first, spell the value. -/
theorem bitsValue_bitsMsb {n : Nat} (v : BitVec n) : bitsValue (bitsMsb v) = v.toNat := by
  have upTo : ∀ m, m ≤ n → bitsValue ((List.range m).map v.getMsbD) = v.toNat / 2 ^ (n - m) := by
    intro m
    induction m with
    | zero => intro _; simpa [bitsValue] using (Nat.div_eq_of_lt v.isLt).symm
    | succ m ih =>
      intro hm
      have hbit : (v.getMsbD m).toNat = v.toNat / 2 ^ (n - (m + 1)) % 2 := by
        simp only [BitVec.getMsbD, BitVec.getLsbD, (by omega : m < n), decide_true, Bool.true_and]
        rw [(by omega : n - 1 - m = n - (m + 1)), Nat.toNat_testBit]
      rw [List.range_succ, List.map_append, List.map_singleton, bitsValue_append_single,
        ih (by omega), hbit, (by omega : n - m = n - (m + 1) + 1), Nat.pow_succ,
        ← Nat.div_div_eq_div_mul]
      omega
  simpa [bitsMsb] using upTo n le_rfl

namespace Machine

/-- A digit has a pattern exactly when it is in range. -/
theorem segmentPattern_isNone (d : Digit) (colon : Bool) :
    (segmentPattern d colon).isNone = digitOutOfRange d := by
  revert d colon; decide

end Machine

end Sys2Proof
end

