-- ==== Sys2Proof/Laws/PerInstr.lean ====
section
/-! SUPPORT. A statement about every instruction as syntax, one lemma per constructor: the encoder's
words fall in the row of spec/opcode_table.json that the instruction stands for. -/

namespace Sys2Proof.Laws

/-- A row's width, match and mask in spec/opcode_table.json. -/
structure TableRow where
  width : Nat
  pattern : Nat
  mask : Nat
deriving DecidableEq, Repr

/-- The row of spec/opcode_table.json. -/
def rowOf : Instr → TableRow
  | .cmd _ => ⟨16, 0x0000, 0xC000⟩
  | .write _ _ => ⟨16, 0x4000, 0xC000⟩
  | .digit _ _ _ => ⟨16, 0x8000, 0xC000⟩
  | .lookup _ _ => ⟨16, 0xC000, 0xC000⟩
  | .frameCmd _ => ⟨12, 0x800, 0xE01⟩
  | .frameWrite _ _ => ⟨17, 0x14000, 0x1C000⟩

/-- An encoded form's bits, most significant first. -/
def encodedBits : Encoded → List Bool
  | .request w => bitsMsb w
  | .wire bits => bits

/-- Do the bits have the row's width and its fixed bits? -/
def fitsRow (bits : List Bool) (r : TableRow) : Bool :=
  bits.length == r.width &&
    (List.range r.width).all fun k =>
      !r.mask.testBit (r.width - 1 - k) || bits[k]? == some (r.pattern.testBit (r.width - 1 - k))

namespace EncodingFitsTheTable

/-- The instruction's encoding has its row's width and fixed bits. -/
def Statement (i : Instr) : Prop := fitsRow (encodedBits (encode i)) (rowOf i) = true

/-- The bits of a value fit a row when every bit the mask selects is the pattern's. -/
theorem fits_of_testBit {n pattern mask : Nat} (v : BitVec n)
    (h : ∀ j, j < n → mask.testBit j = true → v.getLsbD j = pattern.testBit j) :
    fitsRow (bitsMsb v) ⟨n, pattern, mask⟩ = true := by
  simp only [fitsRow, bitsMsb_length, beq_self_eq_true, Bool.true_and, List.all_eq_true,
    List.mem_range]
  intro k hk
  have hj := h (n - 1 - k) (by omega)
  have hb : (bitsMsb v)[k]? = some (v.getLsbD (n - 1 - k)) := by
    rw [List.getElem?_eq_getElem (by simpa using hk), bitsMsb_getElem]
    simp [BitVec.getMsbD, hk]
  cases hm : mask.testBit (n - 1 - k) with
  | false => simp
  | true => simp [hb, hj hm]

theorem cmd (code : CommandCode) : Statement (.cmd code) :=
  fits_of_testBit (cmdWord code) fun j hj hm => by
    simp only [cmdWord, BitVec.getLsbD_append]
    interval_cases j <;> first | exact absurd hm (by decide) | rfl

theorem write (addr : Address) (data : DataByte) : Statement (.write addr data) :=
  fits_of_testBit (writeWord addr data) fun j hj hm => by
    simp only [writeWord, BitVec.getLsbD_append]
    interval_cases j <;> first | exact absurd hm (by decide) | rfl

theorem digit (pos : Position) (colon : Bool) (dg : Digit) : Statement (.digit pos colon dg) :=
  fits_of_testBit (digitWord pos colon dg) fun j hj hm => by
    simp only [digitWord, BitVec.getLsbD_append]
    interval_cases j <;> first | exact absurd hm (by decide) | rfl

theorem lookup (colon : Bool) (dg : Digit) : Statement (.lookup colon dg) :=
  fits_of_testBit (lookupWord colon dg) fun j hj hm => by
    simp only [lookupWord, BitVec.getLsbD_append]
    interval_cases j <;> first | exact absurd hm (by decide) | rfl

theorem frameCmd (code : CommandCode) : Statement (.frameCmd code) :=
  fits_of_testBit (cmdFrameWord code) fun j hj hm => by
    simp only [cmdFrameWord, BitVec.getLsbD_append]
    interval_cases j <;> first | exact absurd hm (by decide) | rfl

theorem frameWrite (addr : Address) (data : DataByte) : Statement (.frameWrite addr data) :=
  fits_of_testBit (writeFrameWord addr data) fun j hj hm => by
    simp only [writeFrameWord, BitVec.getLsbD_append]
    interval_cases j <;> first | exact absurd hm (by decide) | rfl

end EncodingFitsTheTable

end Sys2Proof.Laws
end

