-- ==== Sys2Proof/Laws/State.lean ====
section
/-! SUPPORT. One lemma per field of State per shared operation: what the operation leaves in the field.
All hold by unfolding once; no later proof unfolds a record update. -/

namespace Sys2Proof.Machine

variable {L : Nat}

/-! ### `advance` -/

@[simp] theorem State.advance_st (s : State) :
    s.advance.st = s.st := rfl
@[simp] theorem State.advance_fsr (s : State) :
    s.advance.fsr = s.fsr := rfl
@[simp] theorem State.advance_bcnt (s : State) :
    s.advance.bcnt = s.bcnt := rfl
@[simp] theorem State.advance_pcnt (s : State) :
    s.advance.pcnt = s.pcnt := rfl
@[simp] theorem State.advance_lcdCsN (s : State) :
    s.advance.lcdCsN = s.lcdCsN := rfl
@[simp] theorem State.advance_lcdWr (s : State) :
    s.advance.lcdWr = s.lcdWr := rfl
@[simp] theorem State.advance_lcdData (s : State) :
    s.advance.lcdData = s.lcdData := rfl
@[simp] theorem State.advance_respValid (s : State) :
    s.advance.respValid = s.respValid := rfl
@[simp] theorem State.advance_respIgnored (s : State) :
    s.advance.respIgnored = s.respIgnored := rfl
@[simp] theorem State.advance_respData (s : State) :
    s.advance.respData = s.respData := rfl
@[simp] theorem State.advance_params (s : State) :
    s.advance.params = s.params := rfl
@[simp] theorem State.advance_inputs (s : State) :
    s.advance.inputs = s.inputs.tail := rfl
@[simp] theorem State.advance_draws (s : State) :
    s.advance.draws = s.draws := rfl

/-! ### `resetValues` -/

@[simp] theorem State.resetValues_st (s : State) :
    s.resetValues.st = .idle := rfl
@[simp] theorem State.resetValues_fsr (s : State) :
    s.resetValues.fsr = 0 := rfl
@[simp] theorem State.resetValues_bcnt (s : State) :
    s.resetValues.bcnt = 0 := rfl
@[simp] theorem State.resetValues_pcnt (s : State) :
    s.resetValues.pcnt = 0 := rfl
@[simp] theorem State.resetValues_lcdCsN (s : State) :
    s.resetValues.lcdCsN = true := rfl
@[simp] theorem State.resetValues_lcdWr (s : State) :
    s.resetValues.lcdWr = true := rfl
@[simp] theorem State.resetValues_lcdData (s : State) :
    s.resetValues.lcdData = false := rfl
@[simp] theorem State.resetValues_respValid (s : State) :
    s.resetValues.respValid = false := rfl
@[simp] theorem State.resetValues_respIgnored (s : State) :
    s.resetValues.respIgnored = false := rfl
@[simp] theorem State.resetValues_respData (s : State) :
    s.resetValues.respData = 0 := rfl
@[simp] theorem State.resetValues_params (s : State) :
    s.resetValues.params = s.params := rfl
@[simp] theorem State.resetValues_inputs (s : State) :
    s.resetValues.inputs = s.inputs := rfl
@[simp] theorem State.resetValues_draws (s : State) :
    s.resetValues.draws = s.draws := rfl

/-! ### `freeResponse` -/

@[simp] theorem State.freeResponse_st (s : State) :
    s.freeResponse.st = s.st := rfl
@[simp] theorem State.freeResponse_fsr (s : State) :
    s.freeResponse.fsr = s.fsr := rfl
@[simp] theorem State.freeResponse_bcnt (s : State) :
    s.freeResponse.bcnt = s.bcnt := rfl
@[simp] theorem State.freeResponse_pcnt (s : State) :
    s.freeResponse.pcnt = s.pcnt := rfl
@[simp] theorem State.freeResponse_lcdCsN (s : State) :
    s.freeResponse.lcdCsN = s.lcdCsN := rfl
@[simp] theorem State.freeResponse_lcdWr (s : State) :
    s.freeResponse.lcdWr = s.lcdWr := rfl
@[simp] theorem State.freeResponse_lcdData (s : State) :
    s.freeResponse.lcdData = s.lcdData := rfl
@[simp] theorem State.freeResponse_respValid (s : State) :
    s.freeResponse.respValid = Config.freeRespValid s.draws := rfl
@[simp] theorem State.freeResponse_respIgnored (s : State) :
    s.freeResponse.respIgnored = Config.freeRespIgnored s.draws := rfl
@[simp] theorem State.freeResponse_respData (s : State) :
    s.freeResponse.respData = Config.freeRespData s.draws := rfl
@[simp] theorem State.freeResponse_params (s : State) :
    s.freeResponse.params = s.params := rfl
@[simp] theorem State.freeResponse_inputs (s : State) :
    s.freeResponse.inputs = s.inputs := rfl
@[simp] theorem State.freeResponse_draws (s : State) :
    s.freeResponse.draws = s.draws + 1 := rfl

/-! ### `freeRequest` -/

@[simp] theorem State.freeRequest_st (s : State) :
    s.freeRequest.st = Config.freeSt s.draws := rfl
@[simp] theorem State.freeRequest_fsr (s : State) :
    s.freeRequest.fsr = Config.freeFsr s.draws := rfl
@[simp] theorem State.freeRequest_bcnt (s : State) :
    s.freeRequest.bcnt = Config.freeBcnt s.draws := rfl
@[simp] theorem State.freeRequest_pcnt (s : State) :
    s.freeRequest.pcnt = Config.freePcnt s.draws % 2 ^ s.params.pcntWidth := rfl
@[simp] theorem State.freeRequest_lcdCsN (s : State) :
    s.freeRequest.lcdCsN = Config.freeLcdCsN s.draws := rfl
@[simp] theorem State.freeRequest_lcdWr (s : State) :
    s.freeRequest.lcdWr = s.lcdWr := rfl
@[simp] theorem State.freeRequest_lcdData (s : State) :
    s.freeRequest.lcdData = s.lcdData := rfl
@[simp] theorem State.freeRequest_respValid (s : State) :
    s.freeRequest.respValid = Config.freeRespValid s.draws := rfl
@[simp] theorem State.freeRequest_respIgnored (s : State) :
    s.freeRequest.respIgnored = Config.freeRespIgnored s.draws := rfl
@[simp] theorem State.freeRequest_respData (s : State) :
    s.freeRequest.respData = Config.freeRespData s.draws := rfl
@[simp] theorem State.freeRequest_params (s : State) :
    s.freeRequest.params = s.params := rfl
@[simp] theorem State.freeRequest_inputs (s : State) :
    s.freeRequest.inputs = s.inputs := rfl
@[simp] theorem State.freeRequest_draws (s : State) :
    s.freeRequest.draws = s.draws + 1 := rfl

/-! ### `unspecified` -/

@[simp] theorem State.unspecified_st (s : State) :
    s.unspecified.st = Config.freeSt s.draws := rfl
@[simp] theorem State.unspecified_fsr (s : State) :
    s.unspecified.fsr = Config.freeFsr s.draws := rfl
@[simp] theorem State.unspecified_bcnt (s : State) :
    s.unspecified.bcnt = Config.freeBcnt s.draws := rfl
@[simp] theorem State.unspecified_pcnt (s : State) :
    s.unspecified.pcnt = Config.freePcnt s.draws % 2 ^ s.params.pcntWidth := rfl
@[simp] theorem State.unspecified_lcdCsN (s : State) :
    s.unspecified.lcdCsN = Config.freeLcdCsN s.draws := rfl
@[simp] theorem State.unspecified_lcdWr (s : State) :
    s.unspecified.lcdWr = Config.freeLcdWr s.draws := rfl
@[simp] theorem State.unspecified_lcdData (s : State) :
    s.unspecified.lcdData = Config.freeLcdData s.draws := rfl
@[simp] theorem State.unspecified_respValid (s : State) :
    s.unspecified.respValid = Config.freeRespValid s.draws := rfl
@[simp] theorem State.unspecified_respIgnored (s : State) :
    s.unspecified.respIgnored = Config.freeRespIgnored s.draws := rfl
@[simp] theorem State.unspecified_respData (s : State) :
    s.unspecified.respData = Config.freeRespData s.draws := rfl
@[simp] theorem State.unspecified_params (s : State) :
    s.unspecified.params = s.params := rfl
@[simp] theorem State.unspecified_inputs (s : State) :
    s.unspecified.inputs = s.inputs := rfl
@[simp] theorem State.unspecified_draws (s : State) :
    s.unspecified.draws = s.draws + 1 := rfl

/-! ### `respond` -/

@[simp] theorem State.respond_st (s : State) (ignored : Bool) (data : DataByte) :
    (s.respond ignored data).st = s.st := rfl
@[simp] theorem State.respond_fsr (s : State) (ignored : Bool) (data : DataByte) :
    (s.respond ignored data).fsr = s.fsr := rfl
@[simp] theorem State.respond_bcnt (s : State) (ignored : Bool) (data : DataByte) :
    (s.respond ignored data).bcnt = s.bcnt := rfl
@[simp] theorem State.respond_pcnt (s : State) (ignored : Bool) (data : DataByte) :
    (s.respond ignored data).pcnt = s.pcnt := rfl
@[simp] theorem State.respond_lcdCsN (s : State) (ignored : Bool) (data : DataByte) :
    (s.respond ignored data).lcdCsN = s.lcdCsN := rfl
@[simp] theorem State.respond_lcdWr (s : State) (ignored : Bool) (data : DataByte) :
    (s.respond ignored data).lcdWr = s.lcdWr := rfl
@[simp] theorem State.respond_lcdData (s : State) (ignored : Bool) (data : DataByte) :
    (s.respond ignored data).lcdData = s.lcdData := rfl
@[simp] theorem State.respond_respValid (s : State) (ignored : Bool) (data : DataByte) :
    (s.respond ignored data).respValid = s.respValid := rfl
@[simp] theorem State.respond_respIgnored (s : State) (ignored : Bool) (data : DataByte) :
    (s.respond ignored data).respIgnored = ignored := rfl
@[simp] theorem State.respond_respData (s : State) (ignored : Bool) (data : DataByte) :
    (s.respond ignored data).respData = data := rfl
@[simp] theorem State.respond_params (s : State) (ignored : Bool) (data : DataByte) :
    (s.respond ignored data).params = s.params := rfl
@[simp] theorem State.respond_inputs (s : State) (ignored : Bool) (data : DataByte) :
    (s.respond ignored data).inputs = s.inputs := rfl
@[simp] theorem State.respond_draws (s : State) (ignored : Bool) (data : DataByte) :
    (s.respond ignored data).draws = s.draws := rfl

/-! ### `finish` -/

@[simp] theorem State.finish_st (s : State) (done : Bool) :
    (s.finish done).st = s.st := rfl
@[simp] theorem State.finish_fsr (s : State) (done : Bool) :
    (s.finish done).fsr = s.fsr := rfl
@[simp] theorem State.finish_bcnt (s : State) (done : Bool) :
    (s.finish done).bcnt = s.bcnt := rfl
@[simp] theorem State.finish_pcnt (s : State) (done : Bool) :
    (s.finish done).pcnt = s.pcnt := rfl
@[simp] theorem State.finish_lcdCsN (s : State) (done : Bool) :
    (s.finish done).lcdCsN = s.lcdCsN := rfl
@[simp] theorem State.finish_lcdWr (s : State) (done : Bool) :
    (s.finish done).lcdWr = s.lcdWr := rfl
@[simp] theorem State.finish_lcdData (s : State) (done : Bool) :
    (s.finish done).lcdData = s.lcdData := rfl
@[simp] theorem State.finish_respValid (s : State) (done : Bool) :
    (s.finish done).respValid = done := rfl
@[simp] theorem State.finish_respIgnored (s : State) (done : Bool) :
    (s.finish done).respIgnored = s.respIgnored := rfl
@[simp] theorem State.finish_respData (s : State) (done : Bool) :
    (s.finish done).respData = s.respData := rfl
@[simp] theorem State.finish_params (s : State) (done : Bool) :
    (s.finish done).params = s.params := rfl
@[simp] theorem State.finish_inputs (s : State) (done : Bool) :
    (s.finish done).inputs = s.inputs := rfl
@[simp] theorem State.finish_draws (s : State) (done : Bool) :
    (s.finish done).draws = s.draws := rfl

/-! ### `load` -/

@[simp] theorem State.load_st (s : State) (f : BitVec L) :
    (s.load f).st = .lead := rfl
@[simp] theorem State.load_fsr (s : State) (f : BitVec L) :
    (s.load f).fsr = f.setWidth 17 <<< (17 - L) := rfl
@[simp] theorem State.load_bcnt (s : State) (f : BitVec L) :
    (s.load f).bcnt = BitVec.ofNat 5 L := rfl
@[simp] theorem State.load_pcnt (s : State) (f : BitVec L) :
    (s.load f).pcnt = 0 := rfl
@[simp] theorem State.load_lcdCsN (s : State) (f : BitVec L) :
    (s.load f).lcdCsN = s.lcdCsN := rfl
@[simp] theorem State.load_lcdWr (s : State) (f : BitVec L) :
    (s.load f).lcdWr = s.lcdWr := rfl
@[simp] theorem State.load_lcdData (s : State) (f : BitVec L) :
    (s.load f).lcdData = s.lcdData := rfl
@[simp] theorem State.load_respValid (s : State) (f : BitVec L) :
    (s.load f).respValid = s.respValid := rfl
@[simp] theorem State.load_respIgnored (s : State) (f : BitVec L) :
    (s.load f).respIgnored = s.respIgnored := rfl
@[simp] theorem State.load_respData (s : State) (f : BitVec L) :
    (s.load f).respData = s.respData := rfl
@[simp] theorem State.load_params (s : State) (f : BitVec L) :
    (s.load f).params = s.params := rfl
@[simp] theorem State.load_inputs (s : State) (f : BitVec L) :
    (s.load f).inputs = s.inputs := rfl
@[simp] theorem State.load_draws (s : State) (f : BitVec L) :
    (s.load f).draws = s.draws := rfl

/-! ### `startFrame` -/

@[simp] theorem State.startFrame_st (s : State) (f : BitVec L) :
    (s.startFrame f).st = .lead := rfl
@[simp] theorem State.startFrame_fsr (s : State) (f : BitVec L) :
    (s.startFrame f).fsr = f.setWidth 17 <<< (17 - L) := rfl
@[simp] theorem State.startFrame_bcnt (s : State) (f : BitVec L) :
    (s.startFrame f).bcnt = BitVec.ofNat 5 L := rfl
@[simp] theorem State.startFrame_pcnt (s : State) (f : BitVec L) :
    (s.startFrame f).pcnt = 0 := rfl
@[simp] theorem State.startFrame_lcdCsN (s : State) (f : BitVec L) :
    (s.startFrame f).lcdCsN = false := rfl
@[simp] theorem State.startFrame_lcdWr (s : State) (f : BitVec L) :
    (s.startFrame f).lcdWr = s.lcdWr := rfl
@[simp] theorem State.startFrame_lcdData (s : State) (f : BitVec L) :
    (s.startFrame f).lcdData = s.lcdData := rfl
@[simp] theorem State.startFrame_respValid (s : State) (f : BitVec L) :
    (s.startFrame f).respValid = s.respValid := rfl
@[simp] theorem State.startFrame_respIgnored (s : State) (f : BitVec L) :
    (s.startFrame f).respIgnored = s.respIgnored := rfl
@[simp] theorem State.startFrame_respData (s : State) (f : BitVec L) :
    (s.startFrame f).respData = s.respData := rfl
@[simp] theorem State.startFrame_params (s : State) (f : BitVec L) :
    (s.startFrame f).params = s.params := rfl
@[simp] theorem State.startFrame_inputs (s : State) (f : BitVec L) :
    (s.startFrame f).inputs = s.inputs := rfl
@[simp] theorem State.startFrame_draws (s : State) (f : BitVec L) :
    (s.startFrame f).draws = s.draws := rfl

/-! ### `respondDigit` -/

@[simp] theorem State.respondDigit_st (s : State) (d : Digit) (colon : Bool) :
    (s.respondDigit d colon).st = s.st := rfl
@[simp] theorem State.respondDigit_fsr (s : State) (d : Digit) (colon : Bool) :
    (s.respondDigit d colon).fsr = s.fsr := rfl
@[simp] theorem State.respondDigit_bcnt (s : State) (d : Digit) (colon : Bool) :
    (s.respondDigit d colon).bcnt = s.bcnt := rfl
@[simp] theorem State.respondDigit_pcnt (s : State) (d : Digit) (colon : Bool) :
    (s.respondDigit d colon).pcnt = s.pcnt := rfl
@[simp] theorem State.respondDigit_lcdCsN (s : State) (d : Digit) (colon : Bool) :
    (s.respondDigit d colon).lcdCsN = s.lcdCsN := rfl
@[simp] theorem State.respondDigit_lcdWr (s : State) (d : Digit) (colon : Bool) :
    (s.respondDigit d colon).lcdWr = s.lcdWr := rfl
@[simp] theorem State.respondDigit_lcdData (s : State) (d : Digit) (colon : Bool) :
    (s.respondDigit d colon).lcdData = s.lcdData := rfl
@[simp] theorem State.respondDigit_respValid (s : State) (d : Digit) (colon : Bool) :
    (s.respondDigit d colon).respValid = s.respValid := rfl
@[simp] theorem State.respondDigit_respIgnored (s : State) (d : Digit) (colon : Bool) :
    (s.respondDigit d colon).respIgnored = digitOutOfRange d := rfl
@[simp] theorem State.respondDigit_respData (s : State) (d : Digit) (colon : Bool) :
    (s.respondDigit d colon).respData = (segmentPattern d colon).getD 0 := rfl
@[simp] theorem State.respondDigit_params (s : State) (d : Digit) (colon : Bool) :
    (s.respondDigit d colon).params = s.params := rfl
@[simp] theorem State.respondDigit_inputs (s : State) (d : Digit) (colon : Bool) :
    (s.respondDigit d colon).inputs = s.inputs := rfl
@[simp] theorem State.respondDigit_draws (s : State) (d : Digit) (colon : Bool) :
    (s.respondDigit d colon).draws = s.draws := rfl

end Sys2Proof.Machine
end

