-- ==== Sys2Proof/Laws/Step.lean ====
section
/-! SUPPORT. What an instruction and a clock edge can do, said once: later proofs cite these and do not
unfold the step. -/

namespace Sys2Proof.Machine

/-! ## Instructions -/

/-- Every instruction answers a next state, whatever the state. -/
theorem exec_answers_next (i : Instr) (s : State) : ∃ t, exec i s = .next t := by
  cases i with
  | digit pos colon d =>
    cases h : segmentPattern d colon with
    | none => exact ⟨_, by simp only [exec, execDigit, h]; rfl⟩
    | some p => exact ⟨_, by simp only [exec, execDigit, h]; rfl⟩
  | cmd code => exact ⟨_, rfl⟩
  | write addr data => exact ⟨_, rfl⟩
  | lookup colon d => exact ⟨_, rfl⟩
  | frameCmd code => exact ⟨_, rfl⟩
  | frameWrite addr data => exact ⟨_, rfl⟩

/-- A DIGIT whose digit has a pattern. -/
theorem execDigit_some {pos : Position} {colon : Bool} {d : Digit} {s : State} {p : DataByte}
    (h : segmentPattern d colon = some p) :
    execDigit pos colon d s =
      .next (((s.respondDigit d colon).startFrame
        (writeFrameWord (digitAddress pos) p)).finish false) := by
  simp only [execDigit, h]

/-- A DIGIT whose digit has none. -/
theorem execDigit_none {pos : Position} {colon : Bool} {d : Digit} {s : State}
    (h : segmentPattern d colon = none) :
    execDigit pos colon d s = .next ((s.respondDigit d colon).finish true) := by
  simp only [execDigit, h]

/-! ## The clock edge -/

/-- A port that is stable is sampled as it is. -/
theorem PortInput.settled_of_stable {p : PortInput} (n : Nat) (hr : p.rstNStable = true)
    (hv : p.reqValidStable = true) (hw : p.reqWordStable = true) :
    (p.settled n).rstN = p.rstN ∧ (p.settled n).reqValid = p.reqValid ∧
      (p.settled n).reqWord = p.reqWord := by
  simp only [PortInput.settled, hr, hv, hw, if_true, and_self]

/-- What it is for an edge to read no port that changes too close to it. -/
theorem State.synchronous_iff (s : State) :
    s.synchronous = true ↔
      s.sampled.rstNStable = true ∧
        (s.sampled.rstN = true → s.st = .idle →
          s.sampled.reqValidStable = true ∧
            (s.sampled.reqValid = true → s.sampled.reqWordStable = true)) := by
  simp only [State.synchronous]
  cases s.sampled.rstNStable <;> cases s.sampled.rstN <;> cases s.st <;>
    cases s.sampled.reqValidStable <;> cases s.sampled.reqValid <;>
    cases s.sampled.reqWordStable <;> decide

/-- What a synchronous edge accepts (10_state.md R15). -/
theorem State.accepts_of_synchronous {s : State} (h : s.synchronous = true) :
    s.accepts =
      if s.sampled.rstN && s.st == .idle && s.sampled.reqValid then some s.sampled.reqWord
      else none := by
  obtain ⟨hr, hi⟩ := s.synchronous_iff.mp h
  simp only [State.accepts, PortInput.settled, hr, if_true]
  cases h1 : s.sampled.rstN <;> cases h2 : s.st <;> try rfl
  obtain ⟨hv, hw⟩ := hi h1 h2
  simp only [hv, if_true]
  cases h3 : s.sampled.reqValid
  · rfl
  · simp only [hw h3, if_true]

/-- A request opens a frame exactly when its transaction has one. -/
theorem opensFrame_decodeRequest (w : RequestWord) :
    opensFrame (decodeRequest w) = true ↔ (transact w).1 ≠ [] := by
  have hd : ∀ d : Digit, ∀ k, digitOutOfRange d = (segmentPattern d k).isNone := by decide
  have ho : ∀ o : BitVec 2, o = 0 ∨ o = 1 ∨ o = 2 ∨ o = 3 := by decide
  unfold decodeRequest transact
  generalize w.getLsbD 4 = k
  generalize w.extractLsb' 0 4 = d
  obtain h | h | h | h := ho (w.extractLsb' 14 2) <;> simp only [h] <;>
    cases hp : segmentPattern d k <;> simp [opensFrame, hd d k, hp]

/-- All an edge in IDLE without reset can do. -/
theorem idleEdge_cases {p : PortInput} {s t : State} (h : idleEdge p s = .next t) :
    (p.reqValidStable = true ∧ p.reqValid = false ∧ t = s.finish false) ∨
    (p.reqValidStable = true ∧ p.reqValid = true ∧ p.reqWordStable = true ∧
      exec (decodeRequest p.reqWord) s = .next t) ∨
    (p.reqValidStable = false ∧ p.reqWordStable = true ∧
      opensFrame (decodeRequest p.reqWord) = false ∧ t = s.freeResponse) ∨
    ((p.reqWordStable = false ∨
        p.reqValidStable = false ∧ opensFrame (decodeRequest p.reqWord) = true) ∧
      (p.reqValidStable = true → p.reqValid = true) ∧ t = s.freeRequest) := by
  unfold idleEdge at h
  cases hv : p.reqValidStable <;> cases hq : p.reqValid <;> cases hw : p.reqWordStable <;>
    cases ho : opensFrame (decodeRequest p.reqWord) <;>
    simp [hv, hq, hw, ho] at h ⊢ <;> first | exact h.symm | exact h

/-- All a clock edge can do (10_state.md R30, 70_reset_and_hazards.md R116). -/
theorem clockEdge_cases {s t : State} (h : clockEdge s = .next t) :
    (s.sampled.rstNStable = false ∧ t = s.advance.unspecified) ∨
    (s.sampled.rstNStable = true ∧ s.sampled.rstN = false ∧ t = s.advance.resetValues) ∨
    (s.sampled.rstNStable = true ∧ s.sampled.rstN = true ∧
      ((s.st = .idle ∧ idleEdge s.sampled s.advance = .next t) ∨
       (s.st = .lead ∧ t = s.advance.stepLead) ∨
       (s.st = .low ∧ t = s.advance.stepLow) ∨
       (s.st = .setup ∧ t = s.advance.stepSetup) ∨
       (s.st = .high ∧ t = s.advance.stepHigh))) := by
  unfold clockEdge at h
  cases hs : s.sampled.rstNStable with
  | false =>
    rw [if_pos hs] at h
    exact .inl ⟨rfl, (Host.Outcome.next.inj h).symm⟩
  | true =>
    rw [if_neg (by simp [hs])] at h
    cases hr : s.sampled.rstN with
    | false =>
      rw [if_pos hr] at h
      exact .inr (.inl ⟨rfl, rfl, (Host.Outcome.next.inj h).symm⟩)
    | true =>
      rw [if_neg (by simp [hr])] at h
      refine .inr (.inr ⟨rfl, rfl, ?_⟩)
      cases hst : s.st with
      | idle =>
        simp only [hst] at h
        exact .inl ⟨rfl, h⟩
      | lead =>
        simp only [hst] at h
        exact .inr (.inl ⟨rfl, (Host.Outcome.next.inj h).symm⟩)
      | low =>
        simp only [hst] at h
        exact .inr (.inr (.inl ⟨rfl, (Host.Outcome.next.inj h).symm⟩))
      | setup =>
        simp only [hst] at h
        exact .inr (.inr (.inr (.inl ⟨rfl, (Host.Outcome.next.inj h).symm⟩)))
      | high =>
        simp only [hst] at h
        exact .inr (.inr (.inr (.inr ⟨rfl, (Host.Outcome.next.inj h).symm⟩)))

/-- All a synchronous edge can do (10_state.md R30). -/
theorem clockEdge_cases_of_synchronous {s t : State} (hs : s.synchronous = true)
    (h : clockEdge s = .next t) :
    (s.sampled.rstN = false ∧ t = s.advance.resetValues) ∨
    (s.sampled.rstN = true ∧
      ((s.st = .idle ∧ s.sampled.reqValid = false ∧ t = s.advance.finish false) ∨
       (s.st = .idle ∧ s.sampled.reqValid = true ∧
          exec (decodeRequest s.sampled.reqWord) s.advance = .next t) ∨
       (s.st = .lead ∧ t = s.advance.stepLead) ∨
       (s.st = .low ∧ t = s.advance.stepLow) ∨
       (s.st = .setup ∧ t = s.advance.stepSetup) ∨
       (s.st = .high ∧ t = s.advance.stepHigh))) := by
  obtain ⟨hr, hi⟩ := s.synchronous_iff.mp hs
  obtain ⟨h1, -⟩ | ⟨-, h1, ht⟩ | ⟨-, h1, hc⟩ := clockEdge_cases h
  · simp [hr] at h1
  · exact .inl ⟨h1, ht⟩
  · obtain ⟨hst, ht⟩ | hc := hc
    · obtain ⟨hv, hw⟩ := hi h1 hst
      refine .inr ⟨h1, ?_⟩
      obtain ⟨-, hq, ht⟩ | ⟨-, hq, -, ht⟩ | ⟨h2, -⟩ | ⟨h2, h3, -⟩ := idleEdge_cases ht
      · exact .inl ⟨hst, hq, ht⟩
      · exact .inr (.inl ⟨hst, hq, ht⟩)
      · simp [hv] at h2
      · simp [hv, hw (h3 hv)] at h2
    · exact .inr ⟨h1, .inr (.inr hc)⟩

/-- A step is a clock edge. -/
theorem step_eq_clockEdge (s : State) : step s = clockEdge s := rfl

/-! ## The sequencer's arms -/

theorem State.stepLow_last {s : State} (h : s.pcnt = 0) :
    s.stepLow = { s with lcdData := s.fsr.getLsbD 16, pcnt := s.params.setup - 1, st := .setup,
                         respValid := false } := by
  simp only [State.stepLow, h, if_pos]; rfl

theorem State.stepLow_wait {s : State} (h : s.pcnt ≠ 0) :
    s.stepLow = { s with pcnt := s.pcnt - 1, respValid := false } := by
  simp only [State.stepLow, h, if_neg, not_false_iff]; rfl

theorem State.stepSetup_last {s : State} (h : s.pcnt = 0) :
    s.stepSetup = { s with lcdWr := true, pcnt := s.params.settle - 1, st := .high,
                           respValid := false } := by
  simp only [State.stepSetup, h, if_pos]; rfl

theorem State.stepSetup_wait {s : State} (h : s.pcnt ≠ 0) :
    s.stepSetup = { s with pcnt := s.pcnt - 1, respValid := false } := by
  simp only [State.stepSetup, h, if_neg, not_false_iff]; rfl

theorem State.stepHigh_wait {s : State} (h : s.pcnt ≠ 0) :
    s.stepHigh = { s with pcnt := s.pcnt - 1, respValid := false } := by
  simp only [State.stepHigh, h, if_neg, not_false_iff]; rfl

theorem State.stepHigh_nextBit {s : State} (h : s.pcnt = 0) (hb : 1 < s.bcnt.toNat) :
    s.stepHigh = { s with fsr := s.fsr <<< 1, bcnt := s.bcnt - 1, lcdWr := false,
                          pcnt := s.params.settle - 1, st := .low, respValid := false } := by
  simp only [State.stepHigh, State.finishBit, h, if_pos hb, if_pos]; rfl

theorem State.stepHigh_lastBit {s : State} (h : s.pcnt = 0) (hb : ¬ 1 < s.bcnt.toNat) :
    s.stepHigh = { s with fsr := s.fsr <<< 1, bcnt := s.bcnt - 1, lcdCsN := true, st := .idle,
                          respValid := true } := by
  simp only [State.stepHigh, State.finishBit, h, if_neg hb, if_pos]; rfl

/-! ## Runs -/

@[simp] theorem run_zero (s : State) : run 0 s = .next s := rfl

/-- A run of one edge more. -/
theorem run_succ {n : Nat} {s t : State} (h : step s = .next t) : run (n + 1) s = run n t := by
  simp only [run, h]

/-- Runs compose. -/
theorem run_add {m n : Nat} {s t : State} (h : run m s = .next t) : run (m + n) s = run n t := by
  induction m generalizing s with
  | zero =>
    rw [Nat.zero_add]
    exact congrArg (run n) (Host.Outcome.next.inj h)
  | succ m ih =>
    rw [Nat.add_right_comm]
    simp only [run] at h ⊢
    split at h
    · exact ih h
    · cases h
    · cases h

/-- The recorder over one edge more. -/
theorem record_succ {n : Nat} {s t : State} {r : Recorder} (h : step s = .next t) :
    record (n + 1) s r = record n t (r.observe t) := by
  simp only [record, h]

/-- The accepted words over one edge more. -/
theorem acceptedWords_succ {n : Nat} {s t : State} (h : step s = .next t) :
    acceptedWords (n + 1) s = s.accepts.toList ++ acceptedWords n t := by
  simp only [acceptedWords, h]

end Sys2Proof.Machine
end

