-- ==== Sys2Proof/Tests/Slice0.lean ====
section
/-! SUPPORT. Tests on fixed values, each expected result taken from the spec (its vector is named), and
for every statement with hypotheses a state and operands that meet them. -/

namespace Sys2Proof.Machine.Tests

/-! ## Helpers -/

/-- The next state, if there is one. -/
def stateOf : Out → Option State
  | .next s => some s
  | .fault _ => none
  | .refused _ => none

/-- The vectors' setting: just after reset, S = 1, U = 1, the host offering `w`. -/
def offered (w : RequestWord) : State := .started ⟨1, 1, 1000000⟩ [.offer w]

/-- What a test reads of a state: the sequencer, the transmitter, the pins CS, WR, DATA. -/
structure WireView where
  st : SeqState
  fsr : Nat
  bcnt : Nat
  pcnt : Nat
  csWrData : List Bool
deriving DecidableEq, Repr

def wireView (s : State) : WireView :=
  ⟨s.st, s.fsr.toNat, s.bcnt.toNat, s.pcnt, [s.lcdCsN, s.lcdWr, s.lcdData]⟩

/-- The response port: valid, ignored, data. -/
structure RespView where
  valid : Bool
  ignored : Bool
  data : Nat
deriving DecidableEq, Repr

def respView (s : State) : RespView := ⟨s.respValid, s.respIgnored, s.respData.toNat⟩

/-- A state in the middle of CMD 0x03 at S = 1, U = 1 (95_test_vectors.md V-TICK-1). -/
def inFrame (st : SeqState) (fsr : Nat) (bcnt : Nat) (wr data : Bool) : State :=
  { State.started ⟨1, 1, 1000000⟩ [] with
    st := st, fsr := BitVec.ofNat 17 fsr, bcnt := BitVec.ofNat 5 bcnt
    lcdCsN := false, lcdWr := wr, lcdData := data, respData := 0x03 }

/-! ## Well-formedness: one ill-formed term per check (30_encoding.md R62) -/

theorem test_check_code : (Asm.cmd 256).check = some .codeRange := by decide
theorem test_check_addr : (Asm.write 64 0).check = some .addrRange := by decide
theorem test_check_data : (Asm.write 63 256).check = some .dataRange := by decide
theorem test_check_pos : (Asm.digit 32 0 false).check = some .posRange := by decide
theorem test_check_digit : (Asm.digit 31 16 false).check = some .digitRange := by decide
theorem test_check_lookup : (Asm.lookup 16 true).check = some .digitRange := by decide
theorem test_check_digit_15_accepted : (Asm.digit 31 15 true).WellFormed := by decide
theorem test_frame_is_no_request :
    (Instr.frameCmd 3).isRequest = false ∧ (Instr.frameWrite 4 0xAF).isRequest = false := by decide

/-! ## Decoding: words written out from 30_encoding.md R51 to R54, R58, R59 -/

theorem test_decode_cmd : decode (.request 0b0000000000000011#16) = .ok (.cmd 0x03) := by decide
theorem test_decode_cmd_reserved : decodeRequest 0x3F03#16 = .cmd 0x03 := by decide
theorem test_decode_write : decode (.request 0b0100010010101111#16) = .ok (.write 4 0xAF) := by
  decide
theorem test_decode_write_top : decodeRequest 0x7F00#16 = .write 63 0x00 := by decide
theorem test_decode_digit : decode (.request 0b1000001000010101#16) = .ok (.digit 1 true 5) := by
  decide
theorem test_decode_digit_reserved : decodeRequest 0x81E3#16 = .digit 0 false 3 := by decide
theorem test_decode_lookup : decode (.request 0b1100000000011000#16) = .ok (.lookup true 8) := by
  decide
theorem test_decode_lookup_reserved : decodeRequest 0xFFE5#16 = .lookup false 5 := by decide
theorem test_decode_frame_cmd :
    decode (.wire [true, false, false, false, false, false, false, false, false, true, true, false]) =
      .ok (.frameCmd 0x03) := by decide
theorem test_decode_frame_write :
    decode (.wire [true, false, true, false, false, false, true, false, false,
      true, false, true, false, true, true, true, true]) = .ok (.frameWrite 4 0xAF) := by decide
theorem test_decode_read_mode_refused :
    decode (.wire [true, true, false, false, false, false]) = .error .unknownPrefix := by decide
theorem test_decode_short_frame_refused :
    decode (.wire [true, false, true, false, false, false]) = .error .wrongLength := by decide
theorem test_decode_dont_care_refused :
    decode (.wire [true, false, false, false, false, false, false, false, false, true, true, true]) =
      .error .dontCareSet := by decide
theorem test_table_word_frame_write : decodeTableWord 24 0x14000 = some (.frameWrite 0 0) := by decide
theorem test_table_word_too_wide : decodeTableWord 24 0x20000 = none := by decide

/-- V-SRC-7, V-SRC-8: the frame values. -/
theorem test_frame_values :
    (cmdFrameWord 0x03).toNat = 0x806 ∧ (writeFrameWord 4 0xAF).toNat = 0x144AF := by decide

/-! ## Accepting edges (95_test_vectors.md parts 1 and 2) -/

/-- V-TICK-1, edge 0. -/
theorem test_cmd_accepted :
    (stateOf (step (offered 0x0003))).map wireView =
      some ⟨.lead, 0x100C0, 12, 0, [false, true, false]⟩ := by decide
/-- V-CMD-10: reserved bits set. -/
theorem test_cmd_reserved_response :
    (stateOf (step (offered 0x3F03))).map respView = some ⟨false, false, 0x03⟩ := by decide
/-- V-WR-5: an odd address is sent unchanged. -/
theorem test_write_odd_address :
    (stateOf (step (offered 0x41AB))).map wireView =
      some ⟨.lead, 0x141AB, 17, 0, [false, true, false]⟩ := by decide
/-- V-DIG-9: position 31 with the colon goes to address 62. -/
theorem test_digit_top_position :
    (stateOf (step (offered 0xBE18))).map wireView =
      some ⟨.lead, 0x17EFF, 17, 0, [false, true, false]⟩ := by decide
/-- V-DIG-12: a colon with an ignored digit writes nothing. -/
theorem test_digit_ignored :
    (stateOf (step (offered 0x801F))).map (fun t => (wireView t, respView t)) =
      some (⟨.idle, 0, 0, 0, [true, true, false]⟩, ⟨true, true, 0x00⟩) := by decide
/-- V-LUT-3: reserved bits set. -/
theorem test_lookup_reserved :
    (stateOf (step (offered 0xFFE5))).map (fun t => (wireView t, respView t)) =
      some (⟨.idle, 0, 0, 0, [true, true, false]⟩, ⟨true, false, 0x6D⟩) := by decide
/-- V-LUT-4: digit 15. -/
theorem test_lookup_ignored :
    (stateOf (step (offered 0xFFFF))).map respView = some ⟨true, true, 0x00⟩ := by decide
/-- V-SRC-8: the frame itself, opened by the composer. -/
theorem test_frame_write_opened :
    (stateOf (exec (.frameWrite 4 0xAF) State.reset)).map wireView =
      some ⟨.lead, 0x144AF, 17, 0, [false, true, false]⟩ := by decide
theorem test_frame_cmd_opened :
    (stateOf (exec (.frameCmd 0x03) State.reset)).map wireView =
      some ⟨.lead, 0x100C0, 12, 0, [false, true, false]⟩ := by decide
/-- A placed table word is what the next step runs. -/
theorem test_placed_word_runs :
    (stateOf (step (State.reset.withFetchWord 24 0x144AF))).map wireView =
      some ⟨.lead, 0x144AF, 17, 0, [false, true, false]⟩ := by decide

/-! ## The sequencer (V-TICK-1) -/

theorem test_lead_step :
    (stateOf (step (inFrame .lead 0x100C0 12 true false))).map wireView =
      some ⟨.low, 0x100C0, 12, 0, [false, false, false]⟩ := by decide
theorem test_low_step :
    (stateOf (step (inFrame .low 0x100C0 12 false false))).map wireView =
      some ⟨.setup, 0x100C0, 12, 0, [false, false, true]⟩ := by decide
theorem test_setup_step :
    (stateOf (step (inFrame .setup 0x100C0 12 false true))).map wireView =
      some ⟨.high, 0x100C0, 12, 0, [false, true, true]⟩ := by decide
theorem test_high_step_next_bit :
    (stateOf (step (inFrame .high 0x100C0 12 true true))).map wireView =
      some ⟨.low, 0x00180, 11, 0, [false, false, true]⟩ := by decide
theorem test_high_step_last_bit :
    (stateOf (step (inFrame .high 0x00000 1 true false))).map (fun t => (wireView t, respView t)) =
      some (⟨.idle, 0, 0, 0, [true, true, false]⟩, ⟨true, false, 0x03⟩) := by decide
/-- V-IDLE. -/
theorem test_idle_keeps_reset : stateOf (step State.reset) = some State.reset := by decide
/-- V-RST, E = 4: a reset edge in SETUP raises WR and CS and drops DATA. -/
theorem test_reset_in_setup :
    (stateOf (step { inFrame .setup 0x100C0 12 false true with inputs := [.resetLow] })).map
      (fun t => (wireView t, respView t)) =
      some (⟨.idle, 0, 0, 0, [true, true, false]⟩, ⟨false, false, 0x00⟩) := by decide
/-- 70_reset_and_hazards.md R121: it is recorded as a glitch, not as a bit. -/
theorem test_reset_glitch :
    ((Recorder.startAt (inFrame .setup 0x100C0 12 false true)).observe State.reset).glitches = 1 := by
  decide
/-- The widths of 00_scope.md R6: `W_P` is 1 for S = 2, U = 1, and 3 for S = 5, U = 3. -/
theorem test_pcnt_width :
    (Params.mk 2 1 0).pcntWidth = 1 ∧ (Params.mk 5 3 0).pcntWidth = 3 ∧
      (Params.mk 4 1 0).pcntWidth = 2 := by decide
/-- 70_reset_and_hazards.md R120: at 1 MHz, S = 2 meets the premise; S = 1 does not. -/
theorem test_settle_premise :
    Config.params.MeetsSettleTime ∧ ¬ (Params.mk 1 1 1000000).MeetsSettleTime ∧
      ¬ (Params.mk 1 1 0).MeetsSettleTime := by decide
/-- V-SEQ: a CMD takes 37, 61, 97, 73 and 157 ticks, a WRITE 52 and 222. -/
theorem test_latencies :
    [(⟨1, 1, 0⟩ : Params), ⟨2, 1, 0⟩, ⟨3, 2, 0⟩, ⟨1, 4, 0⟩, ⟨5, 3, 0⟩].map (latency · 0x0003) =
      [37, 61, 97, 73, 157] ∧
    latency ⟨1, 1, 0⟩ 0x44AF = 52 ∧ latency ⟨5, 3, 0⟩ 0x44AF = 222 ∧
    latency ⟨5, 3, 0⟩ 0x800A = 0 := by decide

/-! ## The transaction level, the assembler and the host macros -/

/-- V-SRC-1, with and without the colon. -/
theorem test_lookup_responses :
    (List.range 10).map (fun d => (transact (lookupWord false (BitVec.ofNat 4 d))).2.data.toNat) =
      [0xAF, 0xA0, 0xCB, 0xE9, 0xE4, 0x6D, 0x6F, 0xA8, 0xEF, 0xED] ∧
    (List.range 10).map (fun d => (transact (lookupWord true (BitVec.ofNat 4 d))).2.data.toNat) =
      [0xBF, 0xB0, 0xDB, 0xF9, 0xF4, 0x7D, 0x7F, 0xB8, 0xFF, 0xFD] := by decide
/-- V-DIG-7, V-DIG-13. -/
theorem test_transact_digit :
    transact 0x8A09 = ([.wr 10 0xED], ⟨false, 0xED⟩) ∧ transact 0x9FFF = ([], ⟨true, 0x00⟩) := by
  decide
/-- 30_encoding.md R62: `Digit 31, 8, colon` is 0xBE18 (V-DIG-9), the mnemonic in any case. -/
theorem test_assemble_line_digit :
    assembleLine ['D', 'i', 'g', 'i', 't', ' ', '3', '1', ',', ' ', '8', ',', ' ',
      'c', 'o', 'l', 'o', 'n'] = .ok 0xBE18#16 := by decide
/-- `WRITE 4, 0xAF` is 0x44AF (V-SRC-8). -/
theorem test_assemble_line_write :
    assembleLine ['W', 'R', 'I', 'T', 'E', ' ', '4', ',', ' ', '0', 'x', 'A', 'F'] =
      .ok 0x44AF#16 := by decide
/-- P1: the words of INIT. -/
theorem test_init_words :
    assembleAll HostMacro.init.expand = .ok [0x0001#16, 0x0028#16, 0x0018#16, 0x0006#16, 0x0003#16] := by
  decide
/-- V-SRC-3 and 30_encoding.md R64: CLEAR covers the chip's 32 cells, each once. -/
theorem test_clear_covers_the_cells :
    HostMacro.clear.frames.flatMap Frame.cells = List.range 32 := by decide
/-- V-SRC-4, V-SRC-5, V-SRC-6: after the 16 frames of CLEAR. -/
theorem test_show_number :
    (HostMacro.showNum 7).frames.drop 16 = [.wr 2 0xA8] ∧
    (HostMacro.showNum 42).frames.drop 16 = [.wr 0 0xE4, .wr 2 0xCB] ∧
    (HostMacro.showNum (-1)).frames = HostMacro.clear.frames ∧
    (HostMacro.showNum 100).frames = HostMacro.clear.frames := by decide
/-- 30_encoding.md R64: 16 must not become a valid 0. -/
theorem test_show_digit_16 : (HostMacro.showDigit 0 16 true).frames = [] := by decide

/-! ## Witnesses: for each statement with hypotheses, a state and operands that meet them together, one
for each clause at a boundary of its range -/

/-- A machine in IDLE at S = 2, U = 1 whose host drives `ins`. -/
def idleWith (ins : List PortInput) : State := .started ⟨2, 1, 1000000⟩ ins

/-- A tick whose `rst_n` changes too close to the edge. -/
def raggedReset : PortInput := { PortInput.quiet with rstNStable := false }

/-- A tick whose `req_valid` changes too close to the edge, `w` on the port. -/
def raggedOffer (w : RequestWord) : PortInput := { PortInput.offer w with reqValidStable := false }

/-- A tick in which a request is offered whose word changes too close to the edge. -/
def raggedWord : PortInput := { PortInput.offer 0 with reqWordStable := false }

/-- A bit of a frame at S = 2, U = 2, with `pcnt` ticks left in the phase after the current one. -/
def inPhase (st : SeqState) (fsr bcnt pcnt : Nat) (wr : Bool) : State :=
  { inFrame st fsr bcnt wr false with params := ⟨2, 2, 1000000⟩, pcnt := pcnt }

/-- A host that drives nothing keeps reset away. -/
theorem quietReset_of_no_inputs (s : State) (n : Nat) (h : s.inputs = []) : s.QuietReset n := by
  intro k _
  simp [h]
  rfl

theorem witness_idle_invariant : (offered 0x0003).Inv :=
  ⟨by decide, ⟨by decide, by decide, by decide, by decide, by decide, by decide, by decide⟩,
    by decide, by decide⟩
theorem witness_lead_invariant : (inFrame .lead 0x100C0 12 true false).Inv :=
  ⟨by decide, ⟨by decide, by decide, by decide, by decide, by decide, by decide, by decide⟩,
    by decide, by decide⟩
theorem witness_low_invariant : (inPhase .low 0x144AF 17 1 false).Inv :=
  ⟨by decide, ⟨by decide, by decide, by decide, by decide, by decide, by decide, by decide⟩,
    by decide, by decide⟩
theorem witness_setup_invariant : (inPhase .setup 0x144AF 17 1 false).Inv :=
  ⟨by decide, ⟨by decide, by decide, by decide, by decide, by decide, by decide, by decide⟩,
    by decide, by decide⟩
theorem witness_high_invariant : (inPhase .high 0x10000 1 0 true).Inv :=
  ⟨by decide, ⟨by decide, by decide, by decide, by decide, by decide, by decide, by decide⟩,
    by decide, by decide⟩

/-! ### Encoding and fetching -/

theorem witness_DecodeReadsTheFourFormats :
    ((0x3FFF#16).extractLsb' 14 2).toNat = 0 ∧ ((0x4000#16).extractLsb' 14 2).toNat = 1 ∧
    ((0xBFFF#16).extractLsb' 14 2).toNat = 2 ∧ ((0xC000#16).extractLsb' 14 2).toNat = 3 := by decide
theorem witness_ReservedBitsAreIgnored :
    clearReserved 0x3F03 = clearReserved 0x0003 ∧ clearReserved 0x81E3 = clearReserved 0x8003 ∧
    clearReserved 0xFFE5 = clearReserved 0xC005 ∧ assemble (.digit 31 15 true) = .ok 0xBE1F#16 := by
  decide
theorem witness_ModePrefixTellsKindAndLength :
    decodeFrame (bitsMsb (cmdFrameWord 0xFF)) = .ok (.frameCmd 0xFF) ∧
    decodeFrame (bitsMsb (writeFrameWord 63 0x00)) = .ok (.frameWrite 63 0x00) ∧
    Frame.cmd 0xFF ∈ (transact 0x00FF).1 ∧ Frame.wr 63 0x00 ∈ (transact 0x7F00).1 := by decide
theorem witness_StepRunsTheDecodedRequest :
    (offered 0xFFFF).synchronous = true ∧ (offered 0xFFFF).accepts = some 0xFFFF#16 := by decide
/-- A frame in progress or a reset, a host that offers, and one whose request port changes too close to
the edge; in IDLE, two that offer nothing. -/
theorem witness_AcceptedExactlyWhenValidAndReady :
    (offered 0x0003).synchronous = true ∧
    (PortInput.offer 3).rstNStable = true ∧ (raggedOffer 0).rstNStable = true ∧
    raggedWord.rstNStable = true ∧ (PortInput.offer 3).rstN = (raggedOffer 0).rstN ∧
    (inPhase .low 0x144AF 17 1 false).st ≠ .idle ∧
    PortInput.resetLow.rstNStable = true ∧ PortInput.resetLow.rstN = false ∧
    PortInput.quiet.reqValidStable = true ∧ PortInput.quiet.reqValid = false := by decide

/-! ### Instructions -/

/-- CMD, WRITE, the wire frames: any operands, a machine in IDLE with legal parameters. -/
theorem witness_Cmd_and_Write_statements :
    (idleWith []).st = .idle ∧ (idleWith []).params.Ok ∧
    (∃ t, exec (.cmd 0xFF) (idleWith []) = .next t) ∧
    (∃ t, exec (.write 63 0xFF) (idleWith []) = .next t) ∧
    (∃ t, exec (.frameCmd 0x00) (idleWith []) = .next t) ∧
    ∃ t, exec (.frameWrite 0 0x00) (idleWith []) = .next t :=
  ⟨rfl, by decide, ⟨_, rfl⟩, ⟨_, rfl⟩, ⟨_, rfl⟩, ⟨_, rfl⟩⟩
/-- DIGIT and LOOKUP: the last digit with a pattern, the first without. -/
theorem witness_Digit_and_Lookup_statements :
    (idleWith []).st = .idle ∧ (idleWith []).params.Ok ∧
    (9 : Digit).toNat ≤ 9 ∧ 10 ≤ (10 : Digit).toNat ∧
    segmentPattern 9 true = some 0xFD#8 ∧ segmentPattern 0 false = some 0xAF#8 := by decide
/-- The time a frame takes passes without reset. -/
theorem witness_SendsFrame :
    (idleWith []).QuietReset (1 + 17 * (idleWith []).params.period) :=
  quietReset_of_no_inputs _ _ rfl
theorem witness_AcceptingEdgeChangesOnlyWhatItsRuleNames :
    (offered 0xC005).st = .idle ∧ (∃ t, exec (.lookup false 5) (offered 0xC005) = .next t) ∧
    (∃ t, exec (.digit 31 true 10) (offered 0xC005) = .next t) ∧
    (Instr.frameWrite 0 0).isRequest = false ∧
    ∃ t, exec (.frameWrite 0 0) (offered 0xC005) = .next t :=
  ⟨rfl, ⟨_, rfl⟩, ⟨_, rfl⟩, rfl, ⟨_, rfl⟩⟩
/-- Two different machines in IDLE: after reset, and after a frame that left DATA at 1. -/
theorem witness_EqualRequestsFromIdleDoTheSame :
    ∃ s s' : State, s ≠ s' ∧ s.Legal ∧ s'.Legal ∧ s.st = .idle ∧ s'.st = .idle ∧
      (Instr.cmd 3).isRequest = true ∧
      (∃ t, exec (.cmd 3) s = .next t) ∧ ∃ t', exec (.cmd 3) s' = .next t' :=
  ⟨idleWith [], { idleWith [] with lcdData := true, respData := 0xA5 }, by decide,
    ⟨by decide, by decide, by decide, by decide, by decide, by decide, by decide⟩,
    ⟨by decide, by decide, by decide, by decide, by decide, by decide, by decide⟩,
    rfl, rfl, rfl, ⟨_, rfl⟩, ⟨_, rfl⟩⟩

/-- A LOOKUP with a pattern, then one without, one per edge. -/
theorem witness_LookupAnswersAtOnce_run :
    (idleWith [.offer (lookupWord true 9), .offer (lookupWord false 10)]).st = .idle ∧
    (idleWith [.offer (lookupWord true 9), .offer (lookupWord false 10)]).inputs =
      [(true, 9), (false, 10)].map (fun x => PortInput.offer (lookupWord x.1 x.2)) := by decide

/-! ### Operands and the flag -/

theorem witness_pattern_statements :
    (9 : Digit).toNat ≤ 9 ∧ 10 ≤ (10 : Digit).toNat ∧
    segmentPattern 9 false = some 0xED#8 ∧ segmentPattern 9 true = some 0xFD#8 := by decide
theorem witness_IgnoredFlagIsWrittenOnlyAtAcceptance :
    (offered 0x800A).synchronous = true ∧ (offered 0x800A).accepts = some 0x800A#16 ∧
    (offered 0xC009).synchronous = true ∧ (offered 0xC009).accepts = some 0xC009#16 ∧
    (idleWith []).Running ∧ (idleWith []).accepts = none ∧
    (∃ t, step (idleWith []) = .next t) ∧ ∃ t, step (idleWith [raggedOffer 0x0003]) = .next t :=
  ⟨by decide, by decide, by decide, by decide, by decide, by decide, ⟨_, rfl⟩, ⟨_, rfl⟩⟩

/-! ### The sequencer -/

/-- The edge that enters LEAD. -/
theorem witness_LoadPutsTheFrameLeftAligned :
    1 ≤ 17 ∧ 17 ≤ 17 ∧ (offered 0x0003).synchronous = true ∧
    ∃ t, step (offered 0x0003) = .next t ∧ t.st = .lead :=
  ⟨by decide, by decide, by decide, ⟨_, rfl, rfl⟩⟩
theorem witness_LeadLowersWrAfterOneTick :
    (inFrame .lead 0x100C0 12 true false).Running ∧
    (inFrame .lead 0x100C0 12 true false).st = .lead := by decide
/-- LOW, SETUP and HIGH: a phase just entered, and its last tick; for HIGH the last bit and the one
before. -/
theorem witness_phase_statements :
    (inPhase .low 0x144AF 17 1 false).Running ∧ (inPhase .low 0x144AF 17 1 false).params.Ok ∧
    (inPhase .low 0x144AF 17 1 false).pcnt = (inPhase .low 0x144AF 17 1 false).params.settle - 1 ∧
    (inPhase .low 0x144AF 17 0 false).pcnt = 0 ∧
    (inPhase .setup 0x144AF 17 1 false).pcnt = (inPhase .setup 0x144AF 17 1 false).params.setup - 1 ∧
    (inPhase .setup 0x144AF 17 0 false).pcnt = 0 ∧
    (inPhase .high 0x10000 1 1 true).pcnt = (inPhase .high 0x10000 1 1 true).params.settle - 1 ∧
    (inPhase .high 0x10000 1 0 true).pcnt = 0 ∧ (inPhase .high 0x10000 1 0 true).bcnt.toNat = 1 ∧
    1 < (inPhase .high 0x18000 2 0 true).bcnt.toNat := by decide
theorem witness_phase_statements_quiet :
    (inPhase .low 0x144AF 17 1 false).QuietReset (inPhase .low 0x144AF 17 1 false).params.settle ∧
    (inPhase .setup 0x144AF 17 1 false).QuietReset (inPhase .setup 0x144AF 17 1 false).params.setup ∧
    (inPhase .high 0x10000 1 1 true).QuietReset (inPhase .high 0x10000 1 1 true).params.settle :=
  ⟨quietReset_of_no_inputs _ _ rfl, quietReset_of_no_inputs _ _ rfl, quietReset_of_no_inputs _ _ rfl⟩
theorem witness_EveryEdgeIsTheArmOfItsState :
    (offered 0x0003).synchronous = true ∧
    (idleWith [.resetLow]).synchronous = true ∧ (idleWith [.resetLow]).sampled.rstN = false ∧
    (inPhase .low 0 17 0 false).synchronous = true ∧
    (offered 0x0003).sampled.rstN = true ∧ (offered 0x0003).st = .idle ∧
    (offered 0x0003).sampled.reqValid = true ∧ (idleWith []).sampled.reqValid = false ∧
    (inPhase .low 0 17 0 false).st = .low ∧ (inPhase .setup 0 17 0 false).st = .setup ∧
    (inPhase .high 0 17 0 true).st = .high ∧ (inPhase .lead 0 17 0 true).st = .lead := by decide
/-- Frames of the shortest and of the longest length. -/
theorem witness_frame_schedule_statements :
    (idleWith []).params.Ok ∧ (idleWith []).st = .idle ∧
    (((idleWith []).startFrame (1#1)).finish false).QuietReset (1 + 1 * (idleWith []).params.period) ∧
    (((idleWith []).startFrame (0x144AF#17)).finish false).QuietReset
      (1 + 17 * (idleWith []).params.period) :=
  ⟨by decide, rfl, quietReset_of_no_inputs _ _ rfl, quietReset_of_no_inputs _ _ rfl⟩
theorem witness_FrameInProgressAlwaysEnds :
    (inPhase .low 0x144AF 17 1 false).Inv ∧ (inPhase .low 0x144AF 17 1 false).st ≠ .idle ∧
    (inPhase .low 0x144AF 17 1 false).QuietReset
      (1 + 17 * (inPhase .low 0x144AF 17 1 false).params.period) :=
  ⟨witness_low_invariant, by decide, quietReset_of_no_inputs _ _ rfl⟩

/-! ### Edges without reset: an acceptance, the middle of a frame, the end of one -/

/-- PulseExactlyAtCompletion, WrMovesOnlyWhileSelected, ChipSelectBracketsTheFrame and
ResponseLastsUntilTheNextAcceptance: an acceptance, and the last edge of a frame. -/
theorem witness_running_edges :
    (offered 0x0003).Inv ∧ (offered 0x0003).Running ∧ (offered 0x0003).accepts = some 0x0003#16 ∧
    (∃ t, step (offered 0x0003) = .next t) ∧
    (inPhase .high 0x10000 1 0 true).Inv ∧ (inPhase .high 0x10000 1 0 true).Running ∧
    (inPhase .high 0x10000 1 0 true).accepts = none ∧
    ∃ t, step (inPhase .high 0x10000 1 0 true) = .next t ∧ t.lcdCsN = true :=
  ⟨witness_idle_invariant, by decide, by decide, ⟨_, rfl⟩, witness_high_invariant, by decide,
    by decide, ⟨_, rfl, rfl⟩⟩
/-- The edges at which WR and DATA do move. -/
theorem witness_moving_pins :
    (∃ t, step (inFrame .lead 0x100C0 12 true false) = .next t ∧
      t.lcdWr ≠ (inFrame .lead 0x100C0 12 true false).lcdWr) ∧
    (inPhase .low 0x144AF 17 0 false).Running ∧
    ∃ t, step (inPhase .low 0x144AF 17 0 false) = .next t ∧
      t.lcdData ≠ (inPhase .low 0x144AF 17 0 false).lcdData :=
  ⟨⟨_, rfl, by decide⟩, by decide, ⟨_, rfl, by decide⟩⟩

/-! ### Reset edges and inputs that are not synchronous -/

/-- A reset edge in the middle of a frame, the host offering a request right after it. -/
def resetInSetup : State :=
  { inPhase .setup 0x144AF 17 1 false with inputs := [.resetLow, .offer 0x0003] }

theorem witness_reset_edge_statements :
    resetInSetup.Inv ∧ resetInSetup.sampled.rstNStable = true ∧ resetInSetup.sampled.rstN = false ∧
    resetInSetup.params.Ok ∧
    ∃ t, step resetInSetup = .next t ∧ t.sampled = .offer 0x0003 :=
  ⟨⟨by decide, ⟨by decide, by decide, by decide, by decide, by decide, by decide, by decide⟩,
    by decide, by decide⟩, by decide, by decide, by decide, ⟨_, rfl, rfl⟩⟩
/-- After the abort the host offers nothing, or holds reset. -/
theorem witness_AbortedFrameNeverAnswers :
    ∃ t, step { resetInSetup with inputs := [.resetLow, .quiet, .resetLow] } = .next t ∧
      ∀ k, k < 2 → (t.inputs.getD k .quiet).rstNStable = true ∧
        ((t.inputs.getD k .quiet).rstN = false ∨
          ((t.inputs.getD k .quiet).reqValidStable = true ∧
            (t.inputs.getD k .quiet).reqValid = false)) :=
  ⟨_, rfl, by decide⟩
theorem witness_ResetForgetsWhatWasBefore :
    ∃ s s' : State, s ≠ s' ∧ s.params = s'.params ∧ s.inputs = s'.inputs ∧ s.draws = s'.draws ∧
      s.sampled.rstNStable = true ∧ s.sampled.rstN = false :=
  ⟨resetInSetup, { resetInSetup with lcdData := true, st := .high }, by decide, rfl, rfl, rfl, rfl, rfl⟩
/-- `rst_n` unstable; `req_valid` unstable with a word that opens a frame, and with one that opens none;
the word of an offered request unstable. -/
theorem witness_UnstableInputsFreeWhatTheEdgeMayWrite :
    (idleWith [raggedReset]).sampled.rstNStable = false ∧
    (∀ p ∈ [raggedOffer 0x8009, raggedOffer 0x800A, raggedWord],
      (idleWith [p]).sampled.noReset = true ∧ (idleWith [p]).st = .idle) ∧
    (raggedOffer 0x8009).reqValidStable = false ∧ (transact 0x8009).1 ≠ [] ∧
    (raggedOffer 0x800A).reqValidStable = false ∧ (raggedOffer 0x800A).reqWordStable = true ∧
    (transact 0x800A).1 = [] ∧
    raggedWord.reqValidStable = true ∧ raggedWord.reqValid = true ∧
    raggedWord.reqWordStable = false := by decide
theorem witness_PcntAlwaysFitsItsWidth :
    (idleWith [raggedReset]).PcntFits ∧ (∃ t, step (idleWith [raggedReset]) = .next t) ∧
    (idleWith [raggedWord]).PcntFits ∧ (∃ t, step (idleWith [raggedWord]) = .next t) ∧
    (inPhase .low 0x144AF 17 1 false).PcntFits ∧
    ∃ t, step (inPhase .low 0x144AF 17 1 false) = .next t :=
  ⟨by unfold State.PcntFits; decide, ⟨_, rfl⟩, by unfold State.PcntFits; decide, ⟨_, rfl⟩,
    by unfold State.PcntFits; decide, ⟨_, rfl⟩⟩
/-- Only the word that opens no frame leaves the pins and the sequencer alone; none moves WR or DATA. -/
theorem test_unstable_valid_of_lookup :
    (stateOf (step (idleWith [raggedOffer 0xC005]))).map wireView =
      some ⟨.idle, 0, 0, 0, [true, true, false]⟩ := by decide
theorem test_unstable_word_keeps_wr_and_data :
    (stateOf (step (idleWith [raggedWord]))).map (fun t => [t.lcdWr, t.lcdData]) =
      some [true, false] := by decide
/-- In a frame the request port is not read. -/
theorem test_unstable_offer_in_a_frame :
    stateOf (step { inPhase .low 0x144AF 17 0 false with inputs := [raggedOffer 0x0003] }) =
      stateOf (step (inPhase .low 0x144AF 17 0 false)) := by decide
theorem witness_EveryEdgeKeepsTheInvariant :
    (offered 0x0003).Inv ∧ (offered 0x0003).synchronous = true ∧
    (∃ t, step (offered 0x0003) = .next t) ∧
    (inPhase .low 0x144AF 17 1 false).Inv ∧ (inPhase .low 0x144AF 17 1 false).synchronous = true ∧
    ∃ t, step (inPhase .low 0x144AF 17 1 false) = .next t :=
  ⟨witness_idle_invariant, by decide, ⟨_, rfl⟩, witness_low_invariant, by decide, ⟨_, rfl⟩⟩

/-! ### The transaction level and the host macros -/

theorem witness_AcceptingEdgeMatchesTheTransaction :
    (offered 0x0003).Inv ∧ (offered 0x0003).synchronous = true ∧
    (offered 0x0003).accepts = some 0x0003#16 ∧
    (transact 0x0003).1 ≠ [] ∧ (transact 0x800A).1 = [] :=
  ⟨witness_idle_invariant, by decide, by decide, by decide, by decide⟩
/-- An ignored DIGIT, then a LOOKUP. -/
theorem witness_WireShowsExactlyTheAcceptedTransactions :
    (⟨1, 1, 1000000⟩ : Params).Ok ∧
    (∀ x, x ∈ backToBack ⟨1, 1, 1000000⟩ [0x800A, 0xC009] → x.running = true) ∧
    ∃ u, run (backToBack ⟨1, 1, 1000000⟩ [0x800A, 0xC009]).length
      (State.started ⟨1, 1, 1000000⟩ (backToBack ⟨1, 1, 1000000⟩ [0x800A, 0xC009])) = .next u ∧
      u.st = .idle :=
  ⟨by decide, by decide, ⟨_, rfl, rfl⟩⟩
/-- A CMD: a whole frame at S = 1, U = 1. -/
theorem witness_WireShowsExactlyTheAcceptedTransactions_frame :
    (⟨1, 1, 1000000⟩ : Params).Ok ∧ (transact 0x0003).1 ≠ [] ∧
    (∀ x, x ∈ backToBack ⟨1, 1, 1000000⟩ [0x0003] → x.running = true) ∧
    ∃ u, run (backToBack ⟨1, 1, 1000000⟩ [0x0003]).length
      (State.started ⟨1, 1, 1000000⟩ (backToBack ⟨1, 1, 1000000⟩ [0x0003])) = .next u ∧
      u.st = .idle :=
  ⟨by decide, by decide, by decide, ⟨_, rfl, rfl⟩⟩
theorem witness_BackToBackRequestsTakeTheirLatencies :
    (⟨1, 1, 1000000⟩ : Params).Ok ∧ ([0x0003, 0x800A] : List RequestWord) ≠ [] := by decide
theorem witness_ShowDigitSendsTwiceThePositionOrNothing :
    (0 ≤ (9 : Int) ∧ (9 : Int) ≤ 9) ∧ ((-1 : Int) < 0) ∧ (9 : Int) < 10 := by decide

theorem witness_ShowNumClearsThenShowsTheDigits :
    ((-1 : Int) < 0) ∧ (99 : Int) < 100 ∧ (0 ≤ (9 : Int) ∧ (9 : Int) ≤ 9) ∧
    (10 ≤ (10 : Int) ∧ (10 : Int) ≤ 99) ∧ (10 ≤ (99 : Int) ∧ (99 : Int) ≤ 99) := by decide

end Sys2Proof.Machine.Tests
end

section
/-! What each clock edge does, as equations by the port levels and the sequencer state (10_state.md R30,
70_reset_and_hazards.md R116), and the statements on `req_ready`, acceptance and the arms that follow
from them (R14, R15, R30). -/

namespace Sys2Proof.Machine

/-! ### The edge, forwards -/

/-- The sequencer's step inside a frame (10_state.md R30); IDLE is no state of a frame. -/
def State.frameStep (s : State) : State :=
  match s.st with
  | .idle => s
  | .lead => s.stepLead
  | .low => s.stepLow
  | .setup => s.stepSetup
  | .high => s.stepHigh

theorem clockEdge_of_rstN_unstable {s : State} (hr : s.sampled.rstNStable = false) :
    clockEdge s = .next s.advance.unspecified := if_pos hr

theorem clockEdge_of_reset {s : State} (hr : s.sampled.rstNStable = true)
    (h : s.sampled.rstN = false) : clockEdge s = .next s.advance.resetValues := by
  simp [clockEdge, hr, h]

theorem clockEdge_of_idle {s : State} (hr : s.sampled.rstNStable = true)
    (h : s.sampled.rstN = true) (hst : s.st = .idle) :
    clockEdge s = idleEdge s.sampled s.advance := by
  simp [clockEdge, hr, h, hst]

theorem clockEdge_of_frame {s : State} (hr : s.sampled.rstNStable = true)
    (h : s.sampled.rstN = true) (hst : s.st ≠ .idle) :
    clockEdge s = .next s.advance.frameStep := by
  cases hs : s.st with
  | idle => exact absurd hs hst
  | lead | low | setup | high => simp [clockEdge, State.frameStep, hr, h, hs]

theorem idleEdge_of_no_request {p : PortInput} (s : State) (hv : p.reqValidStable = true)
    (hq : p.reqValid = false) : idleEdge p s = .next (s.finish false) := by
  simp [idleEdge, hv, hq]

theorem idleEdge_of_request {p : PortInput} (s : State) (hv : p.reqValidStable = true)
    (hq : p.reqValid = true) (hw : p.reqWordStable = true) :
    idleEdge p s = exec (decodeRequest p.reqWord) s := by
  simp [idleEdge, hv, hq, hw]

/-! ### `req_ready` and acceptance -/

theorem State.reqReady_iff (s : State) :
    s.reqReady = true ↔ s.sampled.rstN = true ∧ s.st = .idle := by
  simp [State.reqReady]

theorem State.accepts_eq_some_iff {s : State} (hs : s.synchronous = true) (w : RequestWord) :
    s.accepts = some w ↔
      s.sampled.rstN = true ∧ s.st = .idle ∧ s.sampled.reqValid = true ∧
        s.sampled.reqWord = w := by
  simp [State.accepts_of_synchronous hs, and_assoc]

theorem State.accepts_isSome_iff {s : State} (hs : s.synchronous = true) :
    s.accepts.isSome = true ↔ s.sampled.reqValid = true ∧ s.reqReady = true := by
  simp only [Option.isSome_iff_exists, s.accepts_eq_some_iff hs, s.reqReady_iff]
  exact ⟨fun ⟨_, hr, hst, hq, _⟩ => ⟨hq, hr, hst⟩, fun ⟨hq, hr, hst⟩ => ⟨_, hr, hst, hq, rfl⟩⟩

/-- An accepting edge runs the decoded word on the state whose tick is over. -/
theorem step_of_accepts {s : State} {w : RequestWord} (hs : s.synchronous = true)
    (ha : s.accepts = some w) : step s = exec (decodeRequest w) s.advance := by
  obtain ⟨hr, hi⟩ := s.synchronous_iff.mp hs
  obtain ⟨h, hst, hq, rfl⟩ := (s.accepts_eq_some_iff hs w).mp ha
  obtain ⟨hv, hw⟩ := hi h hst
  exact (clockEdge_of_idle hr h hst).trans (idleEdge_of_request _ hv hq (hw hq))

/-- The edges that do not read the request port are a reset, a frame's step and an idle edge with no
request: two machines that agree but for the port then step alike. -/
theorem step_eq_of_port_unread {s t : State} (hadv : s.advance = t.advance)
    (hs : s.sampled.rstNStable = true) (ht : t.sampled.rstNStable = true)
    (hrst : s.sampled.rstN = t.sampled.rstN)
    (hport : s.st ≠ .idle ∨ s.sampled.rstN = false ∨
      (s.sampled.reqValidStable = true ∧ s.sampled.reqValid = false ∧
        t.sampled.reqValidStable = true ∧ t.sampled.reqValid = false)) :
    step s = step t := by
  have hst : s.st = t.st := by simpa using congrArg State.st hadv
  rw [step_eq_clockEdge, step_eq_clockEdge]
  cases h : s.sampled.rstN with
  | false => rw [clockEdge_of_reset hs h, clockEdge_of_reset ht (hrst ▸ h), hadv]
  | true =>
    by_cases hidle : s.st = .idle
    · obtain h' | h' | ⟨hsv, hs0, htv, ht0⟩ := hport
      · exact absurd hidle h'
      · simp [h] at h'
      · rw [clockEdge_of_idle hs h hidle, clockEdge_of_idle ht (hrst ▸ h) (hst ▸ hidle),
          idleEdge_of_no_request _ hsv hs0, idleEdge_of_no_request _ htv ht0, hadv]
    · rw [clockEdge_of_frame hs h hidle, clockEdge_of_frame ht (hrst ▸ h) (hst ▸ hidle), hadv]

/-- Settles O8: the second half holds because `req_ready` reads `rst_n` and `st` alone. -/
theorem readyExactlyInIdleOutOfReset : Obligations.ReadyExactlyInIdleOutOfReset :=
  ⟨State.reqReady_iff, fun _ _ _ _ _ => rfl⟩

/-- Settles O9. -/
theorem acceptedExactlyWhenValidAndReady : Obligations.AcceptedExactlyWhenValidAndReady :=
  ⟨fun s w hs => ⟨s.accepts_eq_some_iff hs w, s.accepts_isSome_iff hs⟩,
    fun s p q rest hp hq hpq hport =>
      step_eq_of_port_unread (s := { s with inputs := p :: rest })
        (t := { s with inputs := q :: rest }) rfl hp hq hpq hport⟩

/-- Settles O31: the equations of the edge, one per arm. -/
theorem everyEdgeIsTheArmOfItsState : Obligations.EveryEdgeIsTheArmOfItsState := by
  intro s hs
  obtain ⟨hr, hi⟩ := s.synchronous_iff.mp hs
  refine ⟨clockEdge_of_reset hr, fun h => ⟨fun hst hq => ?_, fun hst hq => ?_, ?_⟩⟩
  · exact step_of_accepts hs ((s.accepts_eq_some_iff hs _).mpr ⟨h, hst, hq, rfl⟩)
  · exact (clockEdge_of_idle hr h hst).trans (idleEdge_of_no_request _ (hi h hst).1 hq)
  · have harm (hst : s.st ≠ .idle) : step s = .next s.advance.frameStep :=
      clockEdge_of_frame hr h hst
    refine ⟨?_, ?_, ?_, ?_⟩ <;> intro hst <;> simp [harm, hst, State.frameStep]

end Sys2Proof.Machine
end

section
/-! The one status flag, `resp_ignored` (10_state.md R26): which instruction sets it, which edges keep
it, and that no operation reads it. -/

namespace Sys2Proof.Machine

/-! ### The flag an instruction writes -/

/-- The flag that a request writes: 1 for a DIGIT or LOOKUP whose digit is out of range. -/
def ignoredFlag : Instr → Bool
  | .digit _ _ d => digitOutOfRange d
  | .lookup _ d => digitOutOfRange d
  | .cmd _ | .write _ _ | .frameCmd _ | .frameWrite _ _ => false

theorem exec_respIgnored {i : Instr} {s t : State} (hi : i.isRequest = true)
    (h : exec i s = .next t) : t.respIgnored = ignoredFlag i := by
  cases i with
  | cmd code | write addr data | lookup colon d => cases h; rfl
  | digit pos colon d =>
    change execDigit pos colon d s = .next t at h
    cases hp : segmentPattern d colon with
    | some p => rw [execDigit_some hp] at h; cases h; rfl
    | none => rw [execDigit_none hp] at h; cases h; rfl
  | frameCmd code | frameWrite addr data => cases hi

theorem ignoredFlag_decodeRequest (w : RequestWord) :
    ignoredFlag (decodeRequest w) = true ↔
      2 ≤ (w.extractLsb' 14 2).toNat ∧ 10 ≤ (w.extractLsb' 0 4).toNat := by
  have hop : ∀ op : BitVec 2, op = 0 ∨ op = 1 ∨ op = 2 ∨ op = 3 := by decide
  unfold decodeRequest
  obtain h | h | h | h := hop (w.extractLsb' 14 2) <;>
    simp [h, ignoredFlag, digitOutOfRange, Nat.succ_le_iff]

/-! ### The edges that keep the flag -/

theorem State.frameStep_respIgnored (s : State) : s.frameStep.respIgnored = s.respIgnored := by
  unfold State.frameStep
  cases s.st with
  | idle | lead => rfl
  | low => simp only [State.stepLow]; split_ifs <;> rfl
  | setup => simp only [State.stepSetup]; split_ifs <;> rfl
  | high => simp only [State.stepHigh, State.finishBit]; split_ifs <;> rfl

theorem step_respIgnored_of_accepts_none {s t : State} (hs : s.Running) (ha : s.accepts = none)
    (h : step s = .next t) : t.respIgnored = s.respIgnored := by
  obtain ⟨hsync, hrst⟩ := hs
  obtain ⟨hr, hi⟩ := s.synchronous_iff.mp hsync
  by_cases hst : s.st = .idle
  · have hq : s.sampled.reqValid = false := by
      simpa [State.accepts_of_synchronous hsync, hrst, hst] using ha
    rw [step_eq_clockEdge, clockEdge_of_idle hr hrst hst,
      idleEdge_of_no_request _ (hi hrst hst).1 hq] at h
    cases h; rfl
  · rw [step_eq_clockEdge, clockEdge_of_frame hr hrst hst] at h
    cases h; exact s.advance.frameStep_respIgnored

/-! ### No operation reads the flag -/

/-- The same machine with another value of the flag. -/
def State.withIgnored (s : State) (b : Bool) : State := { s with respIgnored := b }

theorem State.frameStep_withIgnored (s : State) (b : Bool) :
    (s.withIgnored b).frameStep = s.frameStep.withIgnored b := by
  unfold State.frameStep
  cases hs : s.st with
  | idle => simp only [State.withIgnored, hs]
  | lead => simp only [State.withIgnored, hs]; rfl
  | low => simp only [State.withIgnored, hs, State.stepLow]; split_ifs <;> rfl
  | setup => simp only [State.withIgnored, hs, State.stepSetup]; split_ifs <;> rfl
  | high =>
    simp only [State.withIgnored, hs, State.stepHigh, State.finishBit]
    split_ifs <;> rfl

/-- Requests overwrite the flag; a wire frame passes it on. -/
theorem exec_withIgnored {i : Instr} {s t : State} (b : Bool) (h : exec i s = .next t) :
    ∃ c, exec i (s.withIgnored b) = .next (t.withIgnored c) := by
  cases i with
  | cmd code | write addr data | lookup colon d => cases h; exact ⟨_, rfl⟩
  | digit pos colon d =>
    change execDigit pos colon d s = .next t at h
    change ∃ c, execDigit pos colon d (s.withIgnored b) = .next (t.withIgnored c)
    cases hp : segmentPattern d colon with
    | some p => rw [execDigit_some hp] at h ⊢; cases h; exact ⟨_, rfl⟩
    | none => rw [execDigit_none hp] at h ⊢; cases h; exact ⟨_, rfl⟩
  | frameCmd code | frameWrite addr data => cases h; exact ⟨b, rfl⟩

theorem idleEdge_withIgnored {p : PortInput} {s t : State} (b : Bool)
    (h : idleEdge p s = .next t) :
    ∃ c, idleEdge p (s.withIgnored b) = .next (t.withIgnored c) := by
  unfold idleEdge at h ⊢
  split_ifs at h ⊢
  · cases h; exact ⟨b, rfl⟩
  · exact exec_withIgnored b h
  · cases h; exact ⟨_, rfl⟩
  · cases h; exact ⟨_, rfl⟩

theorem step_withIgnored {s t : State} (b : Bool) (h : step s = .next t) :
    ∃ c, step (s.withIgnored b) = .next (t.withIgnored c) := by
  rw [step_eq_clockEdge] at h ⊢
  cases hr : s.sampled.rstNStable with
  | false =>
    rw [clockEdge_of_rstN_unstable hr] at h
    cases h; exact ⟨_, clockEdge_of_rstN_unstable hr⟩
  | true =>
    cases hrst : s.sampled.rstN with
    | false =>
      rw [clockEdge_of_reset hr hrst] at h
      cases h; exact ⟨_, clockEdge_of_reset hr hrst⟩
    | true =>
      by_cases hst : s.st = .idle
      · rw [clockEdge_of_idle hr hrst hst] at h
        rw [clockEdge_of_idle (s := s.withIgnored b) hr hrst hst]
        exact idleEdge_withIgnored b h
      · rw [clockEdge_of_frame hr hrst hst] at h
        rw [clockEdge_of_frame (s := s.withIgnored b) hr hrst hst]
        cases h; exact ⟨b, congrArg _ (s.advance.frameStep_withIgnored b)⟩

/-- Settles O25: requests write `ignoredFlag`, the other edges out of reset keep the flag, and every
edge commutes with changing it. -/
theorem ignoredFlagIsWrittenOnlyAtAcceptance :
    Obligations.IgnoredFlagIsWrittenOnlyAtAcceptance := by
  refine ⟨rfl, fun s w hs ha => ?_, fun s t => step_respIgnored_of_accepts_none,
    fun s t b h => ?_⟩
  · obtain ⟨t, ht⟩ := exec_answers_next (decodeRequest w) s.advance
    refine ⟨t, (step_of_accepts hs ha).trans ht, ?_⟩
    rw [exec_respIgnored (decodeRequest_isRequest w) ht]
    exact ignoredFlag_decodeRequest w
  · obtain ⟨c, hc⟩ := step_withIgnored b h
    exact ⟨_, hc, rfl⟩

end Sys2Proof.Machine
end

section
/-! The request formats of 30_encoding.md R50 to R56, one equation each of the decoder and of the
reserved bits, and the statements that follow: reserved bits are read by nothing and set by no assembled
word (R55), and the pseudo-instructions are commands (R63). -/

namespace Sys2Proof

/-! ### The four formats, by `w[15:14]` -/

theorem op_cases (w : RequestWord) :
    w.extractLsb' 14 2 = 0b00#2 ∨ w.extractLsb' 14 2 = 0b01#2 ∨
      w.extractLsb' 14 2 = 0b10#2 ∨ w.extractLsb' 14 2 = 0b11#2 := by
  generalize w.extractLsb' 14 2 = op
  revert op; decide

theorem decodeRequest_of_cmd {w : RequestWord} (h : w.extractLsb' 14 2 = 0b00#2) :
    decodeRequest w = .cmd (w.extractLsb' 0 8) := by
  simp [decodeRequest, h]

theorem decodeRequest_of_write {w : RequestWord} (h : w.extractLsb' 14 2 = 0b01#2) :
    decodeRequest w = .write (w.extractLsb' 8 6) (w.extractLsb' 0 8) := by
  simp [decodeRequest, h]

theorem decodeRequest_of_digit {w : RequestWord} (h : w.extractLsb' 14 2 = 0b10#2) :
    decodeRequest w = .digit (w.extractLsb' 9 5) (w.getLsbD 4) (w.extractLsb' 0 4) := by
  simp [decodeRequest, h]

theorem decodeRequest_of_lookup {w : RequestWord} (h : w.extractLsb' 14 2 = 0b11#2) :
    decodeRequest w = .lookup (w.getLsbD 4) (w.extractLsb' 0 4) := by
  simp [decodeRequest, h]

theorem clearReserved_of_cmd {w : RequestWord} (h : w.extractLsb' 14 2 = 0b00#2) :
    clearReserved w = w &&& 0xC0FF#16 := by
  simp [clearReserved, h]

theorem clearReserved_of_write {w : RequestWord} (h : w.extractLsb' 14 2 = 0b01#2) :
    clearReserved w = w := by
  simp [clearReserved, h]

theorem clearReserved_of_digit {w : RequestWord} (h : w.extractLsb' 14 2 = 0b10#2) :
    clearReserved w = w &&& 0xFE1F#16 := by
  simp [clearReserved, h]

theorem clearReserved_of_lookup {w : RequestWord} (h : w.extractLsb' 14 2 = 0b11#2) :
    clearReserved w = w &&& 0xC01F#16 := by
  simp [clearReserved, h]

/-- Settles O1: the decoder's equation for each value of `w[15:14]`. -/
theorem decodeReadsTheFourFormats : Obligations.DecodeReadsTheFourFormats := fun w =>
  ⟨decodeRequest_isRequest w,
    fun h => decodeRequest_of_cmd (BitVec.eq_of_toNat_eq h),
    fun h => decodeRequest_of_write (BitVec.eq_of_toNat_eq h),
    fun h => decodeRequest_of_digit (BitVec.eq_of_toNat_eq h),
    fun h => decodeRequest_of_lookup (BitVec.eq_of_toNat_eq h)⟩

/-! ### The decoder reads no reserved bit -/

theorem extractLsb'_and_of_mask {mask : RequestWord} {start len : Nat} (w : RequestWord)
    (hm : mask.extractLsb' start len = BitVec.allOnes len) :
    (w &&& mask).extractLsb' start len = w.extractLsb' start len := by
  rw [BitVec.extractLsb'_and, hm, BitVec.and_allOnes]

theorem getLsbD_and_of_mask {mask : RequestWord} {k : Nat} (w : RequestWord)
    (hm : mask.getLsbD k = true) : (w &&& mask).getLsbD k = w.getLsbD k := by
  rw [BitVec.getLsbD_and, hm, Bool.and_true]

/-- Each mask of R55 keeps the format's bits `w[15:14]` and all its fields. -/
theorem decodeRequest_clearReserved (w : RequestWord) :
    decodeRequest (clearReserved w) = decodeRequest w := by
  obtain h | h | h | h := op_cases w
  · rw [clearReserved_of_cmd h, decodeRequest_of_cmd h,
      decodeRequest_of_cmd ((extractLsb'_and_of_mask w rfl).trans h),
      extractLsb'_and_of_mask w rfl]
  · rw [clearReserved_of_write h]
  · rw [clearReserved_of_digit h, decodeRequest_of_digit h,
      decodeRequest_of_digit ((extractLsb'_and_of_mask w rfl).trans h),
      extractLsb'_and_of_mask w rfl, getLsbD_and_of_mask w rfl, extractLsb'_and_of_mask w rfl]
  · rw [clearReserved_of_lookup h, decodeRequest_of_lookup h,
      decodeRequest_of_lookup ((extractLsb'_and_of_mask w rfl).trans h),
      getLsbD_and_of_mask w rfl, extractLsb'_and_of_mask w rfl]

theorem decodeRequest_eq_of_clearReserved_eq {w v : RequestWord}
    (h : clearReserved w = clearReserved v) : decodeRequest w = decodeRequest v := by
  rw [← decodeRequest_clearReserved w, h, decodeRequest_clearReserved]

/-! ### The encoder sets no reserved bit -/

theorem cmdWord_op (code : CommandCode) : (cmdWord code).extractLsb' 14 2 = 0b00#2 := by
  apply BitVec.eq_of_toNat_eq
  rw [extractLsb_toNat_eq, cmdWord_toNat, BitVec.toNat_ofNat]
  omega

theorem writeWord_op (addr : Address) (data : DataByte) :
    (writeWord addr data).extractLsb' 14 2 = 0b01#2 := by
  apply BitVec.eq_of_toNat_eq
  rw [extractLsb_toNat_eq, writeWord_toNat, BitVec.toNat_ofNat]
  omega

theorem digitWord_op (pos : Position) (colon : Bool) (dg : Digit) :
    (digitWord pos colon dg).extractLsb' 14 2 = 0b10#2 := by
  apply BitVec.eq_of_toNat_eq
  have hk := colon.toNat_le
  rw [extractLsb_toNat_eq, digitWord_toNat, BitVec.toNat_ofNat]
  omega

theorem lookupWord_op (colon : Bool) (dg : Digit) :
    (lookupWord colon dg).extractLsb' 14 2 = 0b11#2 := by
  apply BitVec.eq_of_toNat_eq
  have hk := colon.toNat_le
  rw [extractLsb_toNat_eq, lookupWord_toNat, BitVec.toNat_ofNat]
  omega

theorem clearReserved_cmdWord (code : CommandCode) :
    clearReserved (cmdWord code) = cmdWord code := by
  have hmask : 0xC0FF#16 = 0b11#2 ++ 0#6 ++ BitVec.allOnes 8 := rfl
  rw [clearReserved_of_cmd (cmdWord_op code), hmask, cmdWord, BitVec.and_append,
    BitVec.and_append, BitVec.and_allOnes]
  rfl

theorem clearReserved_digitWord (pos : Position) (colon : Bool) (dg : Digit) :
    clearReserved (digitWord pos colon dg) = digitWord pos colon dg := by
  have hmask : 0xFE1F#16 =
      0b11#2 ++ BitVec.allOnes 5 ++ 0#4 ++ BitVec.allOnes 1 ++ BitVec.allOnes 4 := rfl
  rw [clearReserved_of_digit (digitWord_op pos colon dg), hmask, digitWord, BitVec.and_append,
    BitVec.and_append, BitVec.and_append, BitVec.and_append, BitVec.and_allOnes,
    BitVec.and_allOnes, BitVec.and_allOnes]
  rfl

theorem clearReserved_lookupWord (colon : Bool) (dg : Digit) :
    clearReserved (lookupWord colon dg) = lookupWord colon dg := by
  have hmask : 0xC01F#16 = 0b11#2 ++ 0#9 ++ BitVec.allOnes 1 ++ BitVec.allOnes 4 := rfl
  rw [clearReserved_of_lookup (lookupWord_op colon dg), hmask, lookupWord, BitVec.and_append,
    BitVec.and_append, BitVec.and_append, BitVec.and_allOnes, BitVec.and_allOnes]
  rfl

theorem clearReserved_carrierWord (i : Instr) :
    clearReserved (carrierWord i) = carrierWord i := by
  cases i with
  | cmd code | frameCmd code => exact clearReserved_cmdWord code
  | write addr data | frameWrite addr data => exact clearReserved_of_write (writeWord_op addr data)
  | digit pos colon dg => exact clearReserved_digitWord pos colon dg
  | lookup colon dg => exact clearReserved_lookupWord colon dg

namespace Machine

/-! ### The assembler -/

theorem assemble_eq_ok_iff (a : Asm) (w : RequestWord) :
    assemble a = .ok w ↔ a.WellFormed ∧ carrierWord (asmInstr a) = w := by
  unfold assemble Asm.WellFormed
  cases a.check <;> simp

/-- A pseudo-instruction expands to the CMD of its code (30_encoding.md R63). -/
theorem assemble_pseudo_eq_cmd (p : Pseudo) :
    assemble (.pseudo p) = assemble (.cmd (pseudoCode p).toNat) := by
  have hcode : (pseudoCode p).toNat ≤ 255 := Nat.le_of_lt_succ (pseudoCode p).isLt
  have hword : cmdWord (BitVec.ofNat 8 (pseudoCode p).toNat) = cmdWord (pseudoCode p) := by simp
  exact ((assemble_eq_ok_iff (.cmd _) _).mpr ⟨if_pos hcode, hword⟩).symm

/-- Settles O56: each word is computed, each expansion is `assemble_pseudo_eq_cmd`. -/
theorem pseudoInstructionsAreTheSevenCommands :
    Obligations.PseudoInstructionsAreTheSevenCommands :=
  ⟨rfl, assemble_pseudo_eq_cmd .sysDis, rfl, assemble_pseudo_eq_cmd .sysEn,
    rfl, assemble_pseudo_eq_cmd .lcdOff, rfl, assemble_pseudo_eq_cmd .lcdOn,
    rfl, assemble_pseudo_eq_cmd .bias13Com4, rfl, assemble_pseudo_eq_cmd .rcInt,
    rfl, assemble_pseudo_eq_cmd .wdtDis⟩

/-! ### The machine reads a word through the decoder only -/

theorem idleEdge_answers_next (p : PortInput) (s : State) : ∃ t, idleEdge p s = .next t := by
  unfold idleEdge
  split_ifs
  · exact ⟨_, rfl⟩
  · exact exec_answers_next _ s
  · exact ⟨_, rfl⟩
  · exact ⟨_, rfl⟩

/-- No state stops the machine, whatever its ports hold (60_exceptions.md R97). -/
theorem step_answers_next (s : State) : ∃ t, step s = .next t := by
  rw [step_eq_clockEdge]
  cases hr : s.sampled.rstNStable with
  | false => exact ⟨_, clockEdge_of_rstN_unstable hr⟩
  | true =>
    cases hrst : s.sampled.rstN with
    | false => exact ⟨_, clockEdge_of_reset hr hrst⟩
    | true =>
      by_cases hst : s.st = .idle
      · rw [clockEdge_of_idle hr hrst hst]
        exact idleEdge_answers_next _ _
      · exact ⟨_, clockEdge_of_frame hr hrst hst⟩

theorem idleEdge_eq_of_decode_eq {p : PortInput} {v : RequestWord}
    (h : decodeRequest p.reqWord = decodeRequest v) (s : State) :
    idleEdge p s = idleEdge { p with reqWord := v } s := by
  simp only [idleEdge, h]

/-- Only an edge in IDLE reads the word, and `idleEdge` reads it decoded: two machines that agree but
for words of one decoding step alike. -/
theorem step_eq_of_decode_eq {s t : State} {v : RequestWord} (hadv : s.advance = t.advance)
    (hport : t.sampled = { s.sampled with reqWord := v })
    (h : decodeRequest s.sampled.reqWord = decodeRequest v) : step s = step t := by
  have hst : s.st = t.st := by simpa using congrArg State.st hadv
  have hstable : t.sampled.rstNStable = s.sampled.rstNStable := by rw [hport]
  have hlevel : t.sampled.rstN = s.sampled.rstN := by rw [hport]
  cases hr : s.sampled.rstNStable with
  | false =>
    rw [step_eq_clockEdge, step_eq_clockEdge, clockEdge_of_rstN_unstable hr,
      clockEdge_of_rstN_unstable (hstable.trans hr), hadv]
  | true =>
    by_cases hunread : s.st ≠ .idle ∨ s.sampled.rstN = false
    · exact step_eq_of_port_unread hadv hr (hstable.trans hr) hlevel.symm (hunread.imp_right .inl)
    · obtain ⟨hidle, hrst⟩ : s.st = .idle ∧ s.sampled.rstN = true := by simpa using hunread
      calc step s = idleEdge s.sampled s.advance := clockEdge_of_idle hr hrst hidle
        _ = idleEdge t.sampled t.advance := by rw [hport, ← hadv, idleEdge_eq_of_decode_eq h]
        _ = step t :=
          (clockEdge_of_idle (hstable.trans hr) (hlevel.trans hrst) (hst ▸ hidle)).symm

/-- Settles O4: the machine reads a word through the decoder, the decoder reads it up to its reserved
bits, and the assembler's words come from the encoder. -/
theorem reservedBitsAreIgnored : Obligations.ReservedBitsAreIgnored := by
  refine ⟨fun w v h => ?_, fun a w ha => ?_⟩
  · have hdecode := decodeRequest_eq_of_clearReserved_eq h
    exact ⟨hdecode, fun s p rest =>
      ⟨step_eq_of_decode_eq rfl rfl hdecode, step_answers_next _⟩⟩
  · obtain ⟨-, rfl⟩ := (assemble_eq_ok_iff a w).mp ha
    exact clearReserved_carrierWord _

end Machine

end Sys2Proof
end

section
/-! The bit transmitter (40_bit_transmitter.md): what `Load` leaves and which edge enters LEAD (R66),
the one edge of LEAD (R67), and the three phases that `pcnt` counts, LOW, SETUP and HIGH, edge by edge
and over their whole length (R68 to R70). -/

namespace Sys2Proof.Machine

/-! ### Loading a frame -/

/-- Bit `L - 1 - k` of the frame stands `k` places below the top of `fsr`, above zeros. -/
theorem State.load_fsr_getLsbD {L : Nat} (s : State) (f : BitVec L) (hL : L ≤ 17) {k : Nat}
    (hk : k < 17) :
    (s.load f).fsr.getLsbD (16 - k) = (decide (k < L) && f.getLsbD (L - 1 - k)) := by
  rw [State.load_fsr, BitVec.getLsbD_shiftLeft, BitVec.getLsbD_setWidth]
  by_cases hkL : k < L
  · have hidx : 16 - k - (17 - L) = L - 1 - k := by omega
    have hin : 16 - k < 17 ∧ ¬ 16 - k < 17 - L ∧ L - 1 - k < 17 := by omega
    simp [hidx, hin, hkL]
  · have hout : 16 - k < 17 - L := by omega
    simp [hout, hkL]

/-- All of the frame is shifted out after `L` shifts. -/
theorem State.load_fsr_shiftLeft {L : Nat} (s : State) (f : BitVec L) (hL : L ≤ 17) :
    (s.load f).fsr <<< L = 0 := by
  rw [State.load_fsr, ← BitVec.shiftLeft_add, Nat.sub_add_cancel hL]
  exact BitVec.shiftLeft_eq_zero le_rfl

/-! ### Entering LEAD -/

/-- An instruction moves the sequencer exactly when it opens a frame. -/
theorem exec_st {i : Instr} {s t : State} (h : exec i s = .next t) :
    t.st = if opensFrame i then .lead else s.st := by
  cases i with
  | cmd code | write addr data | lookup colon d | frameCmd code | frameWrite addr data =>
    cases h; rfl
  | digit pos colon d =>
    change execDigit pos colon d s = .next t at h
    have hd := segmentPattern_isNone d colon
    cases hp : segmentPattern d colon with
    | some p => rw [execDigit_some hp] at h; cases h; simp [opensFrame, ← hd, hp, State.finish]
    | none => rw [execDigit_none hp] at h; cases h; simp [opensFrame, ← hd, hp, State.finish]

/-- No step of a frame leads back to LEAD. -/
theorem State.frameStep_st_ne_lead {s : State} (hst : s.st ≠ .idle) : s.frameStep.st ≠ .lead := by
  unfold State.frameStep
  cases hs : s.st with
  | idle => exact absurd hs hst
  | lead => simp [State.stepLead, State.finish]
  | low => simp only [State.stepLow]; split_ifs <;> simp [State.finish, hs]
  | setup => simp only [State.stepSetup]; split_ifs <;> simp [State.finish, hs]
  | high => simp only [State.stepHigh, State.finishBit]; split_ifs <;> simp [State.finish, hs]

/-- Only an edge that accepts a request with a frame enters LEAD (40_bit_transmitter.md R66). -/
theorem accepts_of_step_to_lead {s t : State} (hs : s.synchronous = true) (h : step s = .next t)
    (ht : t.st = .lead) : s.st = .idle ∧ ∃ w, s.accepts = some w ∧ (transact w).1 ≠ [] := by
  obtain ⟨hr, hi⟩ := s.synchronous_iff.mp hs
  cases hrst : s.sampled.rstN with
  | false =>
    rw [step_eq_clockEdge, clockEdge_of_reset hr hrst] at h
    cases h; cases ht
  | true =>
    by_cases hst : s.st = .idle
    · cases hq : s.sampled.reqValid with
      | false =>
        rw [step_eq_clockEdge, clockEdge_of_idle hr hrst hst,
          idleEdge_of_no_request _ (hi hrst hst).1 hq] at h
        cases h; simp [State.finish, hst] at ht
      | true =>
        have ha : s.accepts = some s.sampled.reqWord :=
          (s.accepts_eq_some_iff hs _).mpr ⟨hrst, hst, hq, rfl⟩
        have hopens :
            t.st = if opensFrame (decodeRequest s.sampled.reqWord) then .lead else .idle := by
          simpa [hst] using exec_st ((step_of_accepts hs ha).symm.trans h)
        refine ⟨hst, _, ha, (opensFrame_decodeRequest _).mp ?_⟩
        by_contra hno
        simp [hopens, hno] at ht
    · rw [step_eq_clockEdge, clockEdge_of_frame hr hrst hst] at h
      cases h
      exact absurd ht (State.frameStep_st_ne_lead hst)

/-- Settles O26: `Load` field by field, and the edges that can enter LEAD. -/
theorem loadPutsTheFrameLeftAligned : Obligations.LoadPutsTheFrameLeftAligned := by
  refine ⟨fun L f s _ hL => ⟨rfl, ?_, fun k => s.load_fsr_getLsbD f hL, s.load_fsr_shiftLeft f hL⟩,
    fun s t => accepts_of_step_to_lead⟩
  rw [State.load_bcnt, BitVec.toNat_ofNat]
  exact Nat.mod_eq_of_lt (by omega)

/-! ### An edge of a frame -/

theorem State.Running.noReset {s : State} (hs : s.Running) : s.sampled.noReset = true := by
  simp [PortInput.noReset, (s.synchronous_iff.mp hs.1).1, hs.2]

/-- Inside a frame an edge without reset is the sequencer's step, whatever the request port does. -/
theorem step_of_frame {s : State} (hp : s.sampled.noReset = true) (hst : s.st ≠ .idle) :
    step s = .next s.advance.frameStep := by
  obtain ⟨hr, hrst⟩ : s.sampled.rstNStable = true ∧ s.sampled.rstN = true := by
    simpa [PortInput.noReset] using hp
  exact clockEdge_of_frame hr hrst hst

/-- Settles O27: in LEAD the sequencer's step is `StepLEAD`, which reads no counter. -/
theorem leadLowersWrAfterOneTick : Obligations.LeadLowersWrAfterOneTick := by
  intro s hs hst
  rw [step_of_frame hs.noReset (by simp [hst])]
  simp [State.frameStep, hst, State.stepLead, State.finish]

/-- The sequencer is in a phase whose ticks `pcnt` counts (10_state.md R21). -/
abbrev State.Counting (s : State) : Prop := s.st = .low ∨ s.st = .setup ∨ s.st = .high

/-- Within a phase an edge only counts down. -/
theorem step_of_pcnt_ne_zero {s : State} (hp : s.sampled.noReset = true) (hc : s.Counting)
    (h : s.pcnt ≠ 0) :
    step s = .next { s.advance with pcnt := s.pcnt - 1, respValid := false } := by
  have hadv : s.advance.pcnt ≠ 0 := h
  have hidle : s.st ≠ .idle := by obtain hst | hst | hst := hc <;> simp [hst]
  rw [step_of_frame hp hidle]
  obtain hst | hst | hst := hc
  · simp [State.frameStep, hst, State.stepLow_wait hadv]
  · simp [State.frameStep, hst, State.stepSetup_wait hadv]
  · simp [State.frameStep, hst, State.stepHigh_wait hadv]

theorem step_of_low_end {s : State} (hp : s.sampled.noReset = true) (hst : s.st = .low)
    (h : s.pcnt = 0) :
    step s = .next { s.advance with
      lcdData := s.fsr.getLsbD 16, pcnt := s.params.setup - 1, st := .setup, respValid := false } := by
  have hadv : s.advance.pcnt = 0 := h
  rw [step_of_frame hp (by simp [hst])]
  simp [State.frameStep, hst, State.stepLow_last hadv]

theorem step_of_setup_end {s : State} (hp : s.sampled.noReset = true) (hst : s.st = .setup)
    (h : s.pcnt = 0) :
    step s = .next { s.advance with
      lcdWr := true, pcnt := s.params.settle - 1, st := .high, respValid := false } := by
  have hadv : s.advance.pcnt = 0 := h
  rw [step_of_frame hp (by simp [hst])]
  simp [State.frameStep, hst, State.stepSetup_last hadv]

/-- At the end of a bit that is not the last. -/
theorem step_of_high_next_bit {s : State} (hp : s.sampled.noReset = true) (hst : s.st = .high)
    (h : s.pcnt = 0) (hb : 1 < s.bcnt.toNat) :
    step s = .next { s.advance with
      fsr := s.fsr <<< 1, bcnt := BitVec.ofNat 5 (s.bcnt.toNat - 1), lcdWr := false
      pcnt := s.params.settle - 1, st := .low, respValid := false } := by
  have hadv : s.advance.pcnt = 0 := h
  have hdec : s.bcnt - 1#5 = BitVec.ofNat 5 (s.bcnt.toNat - 1) := by
    simpa using BitVec.ofNat_sub_ofNat_of_le (w := 5) s.bcnt.toNat 1 (by decide) hb.le
  rw [step_of_frame hp (by simp [hst])]
  simp [State.frameStep, hst, State.stepHigh_nextBit (s := s.advance) hadv hb, hdec]

/-- At the end of the last bit. -/
theorem step_of_high_last_bit {s : State} (hp : s.sampled.noReset = true) (hst : s.st = .high)
    (h : s.pcnt = 0) (hb : s.bcnt.toNat = 1) :
    step s = .next { s.advance with
      fsr := s.fsr <<< 1, bcnt := 0, lcdCsN := true, st := .idle, respValid := true } := by
  have hadv : s.advance.pcnt = 0 := h
  have hone : s.bcnt = 1#5 := BitVec.eq_of_toNat_eq hb
  rw [step_of_frame hp (by simp [hst])]
  simp [State.frameStep, hst, State.stepHigh_lastBit (s := s.advance) hadv (by simp [hb]), hone]

/-! ### A phase over its whole length -/

theorem run_one (s : State) : run 1 s = step s := by
  obtain ⟨t, ht⟩ := step_answers_next s
  rw [run_succ ht, run_zero, ht]

/-- `s` after `m` edges of waiting within a phase. -/
def State.waited (s : State) (m : Nat) : State :=
  { s with
    pcnt := s.pcnt - m, respValid := s.respValid && m == 0, inputs := s.inputs.drop m }

theorem State.waited_zero (s : State) : s.waited 0 = s := by
  simp [State.waited]

/-- One edge of waiting more. -/
theorem State.waited_succ (s : State) (m : Nat) :
    s.waited (m + 1) =
      { (s.waited m).advance with pcnt := (s.waited m).pcnt - 1, respValid := false } := by
  simp [State.waited, State.advance, Nat.sub_sub]

theorem State.QuietReset.noReset_waited {s : State} {n m : Nat} (hq : s.QuietReset n)
    (hm : m < n) : (s.waited m).sampled.noReset = true := by
  simpa [State.sampled, State.waited, List.headD_eq_head?_getD] using hq m hm

/-- While `pcnt` lasts, every edge waits. -/
theorem run_of_counting {s : State} {n m : Nat} (hc : s.Counting) (hq : s.QuietReset n)
    (hm : m < n) (hpcnt : m ≤ s.pcnt) : run m s = .next (s.waited m) := by
  induction m with
  | zero => rw [run_zero, s.waited_zero]
  | succ m ih =>
    have hleft : (s.waited m).pcnt ≠ 0 := Nat.sub_ne_zero_of_lt hpcnt
    rw [run_add (ih (by omega) (by omega)), s.waited_succ]
    exact run_succ (step_of_pcnt_ne_zero (hq.noReset_waited (by omega)) hc hleft)

/-- A phase entered with `pcnt = n - 1` waits for `n - 1` edges, and the next one ends it. -/
theorem run_of_phase {s : State} {n : Nat} (hc : s.Counting) (hn : 1 ≤ n) (hpcnt : s.pcnt = n - 1)
    (hq : s.QuietReset n) :
    (∀ m, m < n → run m s = .next (s.waited m)) ∧
      (s.waited (n - 1)).sampled.noReset = true ∧ (s.waited (n - 1)).pcnt = 0 ∧
      run n s = step (s.waited (n - 1)) := by
  have hwait (m : Nat) (hm : m < n) : run m s = .next (s.waited m) :=
    run_of_counting hc hq hm (by omega)
  have hlast : n - 1 < n := Nat.sub_one_lt_of_lt hn
  refine ⟨hwait, hq.noReset_waited hlast, by simp [State.waited, hpcnt], ?_⟩
  calc run n s = run (n - 1 + 1) s := by rw [Nat.sub_add_cancel hn]
    _ = run 1 (s.waited (n - 1)) := run_add (hwait _ hlast)
    _ = step (s.waited (n - 1)) := run_one _

/-- Settles O28: `run_of_phase` for LOW, ended by the edge that drives DATA. -/
theorem lowPhaseSettlesThenDrivesTheBit : Obligations.LowPhaseSettlesThenDrivesTheBit := by
  refine ⟨fun s hs hst => ⟨step_of_low_end hs.noReset hst,
    step_of_pcnt_ne_zero hs.noReset (.inl hst)⟩, fun s hok hst hpcnt hq => ?_⟩
  obtain ⟨hwait, hp, hzero, hend⟩ := run_of_phase (.inl hst) hok.1 hpcnt hq
  exact ⟨fun m hm => ⟨_, hwait m hm, hst, rfl, rfl, rfl⟩,
    _, hend.trans (step_of_low_end hp hst hzero), rfl, rfl, rfl, rfl⟩

/-- Settles O29: `run_of_phase` for SETUP, ended by the edge that raises WR. -/
theorem setupPhaseHoldsDataThenRaisesWr : Obligations.SetupPhaseHoldsDataThenRaisesWr := by
  refine ⟨fun s hs hst => ⟨step_of_setup_end hs.noReset hst,
    step_of_pcnt_ne_zero hs.noReset (.inr (.inl hst))⟩, fun s hok hst hpcnt hq => ?_⟩
  obtain ⟨hwait, hp, hzero, hend⟩ := run_of_phase (.inr (.inl hst)) hok.2 hpcnt hq
  exact ⟨fun m hm => ⟨_, hwait m hm, hst, rfl, rfl, rfl⟩,
    _, hend.trans (step_of_setup_end hp hst hzero), rfl, rfl, rfl, rfl⟩

/-- Settles O30: the edge that ends the phase splits by whether a bit is left. -/
theorem highPhaseHoldsThenEndsTheBit : Obligations.HighPhaseHoldsThenEndsTheBit := by
  refine ⟨fun s hs hst _ => ⟨step_of_pcnt_ne_zero hs.noReset (.inr (.inr hst)),
    step_of_high_next_bit hs.noReset hst, step_of_high_last_bit hs.noReset hst⟩,
    fun s hok hst hpcnt hb hq => ?_⟩
  obtain ⟨hwait, hp, hzero, hend⟩ := run_of_phase (.inr (.inr hst)) hok.1 hpcnt hq
  refine ⟨fun m hm => ⟨_, hwait m hm, hst, rfl, rfl, rfl⟩, ?_⟩
  obtain hmore | hlast := hb.lt_or_eq'
  · exact ⟨_, hend.trans (step_of_high_next_bit hp hst hzero hmore), rfl,
      fun _ => ⟨rfl, rfl, rfl⟩, fun hlast => absurd hlast hmore.ne'⟩
  · exact ⟨_, hend.trans (step_of_high_last_bit hp hst hzero hlast), rfl,
      fun hmore => absurd hlast hmore.ne', fun _ => ⟨rfl, rfl, rfl, hzero, rfl⟩⟩

end Sys2Proof.Machine
end

section
/-! A frame on the wire (40_bit_transmitter.md R71, R75, R76; 41_frame_composer.md R80, R81): the edges
of a phase, a bit and a whole frame, each with what the recorder makes of them, and the statements on CMD
and WRITE that follow. -/

namespace Sys2Proof.Machine

/-! ### Runs and the recorder -/

/-- The recorder over a run and what follows it. -/
theorem record_add {m n : Nat} {s t : State} {r : Recorder} (h : run m s = .next t) :
    record (m + n) s r = record n t (record m s r) := by
  induction m generalizing s r with
  | zero => cases h; rw [Nat.zero_add]; rfl
  | succ m ih =>
    obtain ⟨u, hu⟩ := step_answers_next s
    rw [run_succ hu] at h
    rw [Nat.add_right_comm, record_succ hu, record_succ hu, ih h]

/-- The recorder of `r` inside a chip-select interval in which `bits` have been sampled. -/
def Recorder.sending (r : Recorder) (wr : Bool) (bits : List Bool) : Recorder :=
  { r with csN := false, wr := wr, bits := bits }

/-- The recorder of `r` after the frame `bits` has completed with `resp`. -/
def Recorder.completed (r : Recorder) (bits : List Bool) (resp : Response) : Recorder :=
  { r with
    csN := true, wr := true, bits := []
    frames := r.frames ++ [bits], responses := r.responses ++ [resp] }

/-- Where WR does not rise, no bit is sampled. -/
theorem Recorder.observe_of_no_rise (r : Recorder) {wr : Bool} {bits : List Bool} {s : State}
    (hcs : s.lcdCsN = false) (hv : s.respValid = false) (hwr : s.lcdWr = true → wr = true) :
    (r.sending wr bits).observe s = r.sending s.lcdWr bits := by
  cases hs : s.lcdWr with
  | false => simp [Recorder.observe, Recorder.sending, hcs, hv, hs]
  | true => simp [Recorder.observe, Recorder.sending, hcs, hv, hs, hwr hs]

/-- Where WR rises, the level of DATA is sampled. -/
theorem Recorder.observe_of_rise (r : Recorder) {bits : List Bool} {s : State}
    (hcs : s.lcdCsN = false) (hv : s.respValid = false) (hwr : s.lcdWr = true) :
    (r.sending false bits).observe s = r.sending true (bits ++ [s.lcdData]) := by
  simp [Recorder.observe, Recorder.sending, hcs, hv, hwr]

/-- Where chip-select rises with the pulse, the frame and its response are complete. -/
theorem Recorder.observe_of_completion (r : Recorder) {bits : List Bool} {s : State}
    (hcs : s.lcdCsN = true) (hv : s.respValid = true) (hwr : s.lcdWr = true) :
    (r.sending true bits).observe s = r.completed bits ⟨s.respIgnored, s.respData⟩ := by
  simp [Recorder.observe, Recorder.sending, Recorder.completed, hcs, hv, hwr]

/-! ### Stretches of a frame -/

/-- A frame is in progress and no completion pulse is given. -/
structure State.Busy (s : State) : Prop where
  st_ne_idle : s.st ≠ .idle
  lcdCsN_low : s.lcdCsN = false
  respValid_low : s.respValid = false

/-- `n` edges lead from `s` to `t` and the recorder from `r` to `q`, the frame being in progress until the
last of them. -/
structure FrameRun (n : Nat) (s : State) (r : Recorder) (t : State) (q : Recorder) : Prop where
  run_eq : run n s = .next t
  record_eq : record n s r = q
  busy : ∀ m, m < n → ∃ v, run m s = .next v ∧ v.Busy

theorem FrameRun.zero (s : State) (r : Recorder) : FrameRun 0 s r s r where
  run_eq := rfl
  record_eq := rfl
  busy _ hm := absurd hm (Nat.not_lt_zero _)

/-- One edge more. -/
theorem FrameRun.snoc {n : Nat} {s t u : State} {r q p : Recorder} (h : FrameRun n s r t q)
    (ht : t.Busy) (hstep : step t = .next u) (hobs : q.observe u = p) :
    FrameRun (n + 1) s r u p where
  run_eq := (run_add h.run_eq).trans ((run_one t).trans hstep)
  record_eq := by rw [record_add h.run_eq, h.record_eq, record_succ hstep, hobs]; rfl
  busy m hm := by
    obtain hmn | rfl := Nat.lt_succ_iff_lt_or_eq.mp hm
    · exact h.busy m hmn
    · exact ⟨t, h.run_eq, ht⟩

theorem FrameRun.trans {m n : Nat} {s t u : State} {r q p : Recorder} (h : FrameRun m s r t q)
    (h' : FrameRun n t q u p) : FrameRun (m + n) s r u p where
  run_eq := (run_add h.run_eq).trans h'.run_eq
  record_eq := by rw [record_add h.run_eq, h.record_eq, h'.record_eq]
  busy k hk := by
    obtain hkm | hmk := Nat.lt_or_ge k m
    · exact h.busy k hkm
    · obtain ⟨j, rfl⟩ := Nat.exists_eq_add_of_le hmk
      rw [run_add h.run_eq]
      exact h'.busy j (by omega)

theorem State.QuietReset.mono {s : State} {m n : Nat} (hq : s.QuietReset n) (h : m ≤ n) :
    s.QuietReset m :=
  fun k hk => hq k (hk.trans_le h)

/-- Quiet ticks are left after the first of them are over. -/
theorem State.QuietReset.drop {s t : State} {m n : Nat} (hq : s.QuietReset (m + n))
    (ht : t.inputs = s.inputs.drop m) : t.QuietReset n := fun k hk => by
  simpa [ht, List.getD_eq_getElem?_getD] using hq (m + k) (by omega)

/-! ### A phase -/

theorem State.Busy.waited {s : State} (hb : s.Busy) (m : Nat) : (s.waited m).Busy where
  st_ne_idle := hb.st_ne_idle
  lcdCsN_low := hb.lcdCsN_low
  respValid_low := by simp [State.waited, hb.respValid_low]

/-- While a phase waits the recorder sees nothing. -/
theorem frameRun_waited {s : State} {n : Nat} (r : Recorder) (bits : List Bool)
    (hc : s.Counting) (hb : s.Busy) (hq : s.QuietReset n) (hn : n ≤ s.pcnt) :
    FrameRun n s (r.sending s.lcdWr bits) (s.waited n) (r.sending s.lcdWr bits) := by
  induction n with
  | zero => rw [s.waited_zero]; exact .zero s _
  | succ n ih =>
    have hleft : (s.waited n).pcnt ≠ 0 := Nat.sub_ne_zero_of_lt hn
    have hstep : step (s.waited n) = .next (s.waited (n + 1)) := by
      rw [s.waited_succ]
      exact step_of_pcnt_ne_zero (hq.noReset_waited n.lt_succ_self) hc hleft
    exact (ih (hq.mono n.le_succ) (by omega)).snoc (hb.waited n) hstep
      (r.observe_of_no_rise hb.lcdCsN_low (hb.waited _).respValid_low id)

/-- What the recorder makes of a phase is what it makes of the edge that ends it. -/
theorem frameRun_of_phase {s t : State} {n : Nat} {r q : Recorder} {bits : List Bool}
    (hc : s.Counting) (hb : s.Busy) (hn : 1 ≤ n) (hpcnt : s.pcnt = n - 1) (hq : s.QuietReset n)
    (hend : step (s.waited (n - 1)) = .next t)
    (hobs : (r.sending s.lcdWr bits).observe t = q) :
    FrameRun n s (r.sending s.lcdWr bits) t q := by
  have hwait := frameRun_waited r bits hc hb (hq.mono (Nat.sub_le n 1)) hpcnt.ge
  exact Nat.sub_add_cancel hn ▸ hwait.snoc (hb.waited _) hend hobs

/-- The edge that ends a phase of `n` ticks takes the last of its inputs. -/
theorem State.waited_last_inputs (s : State) {n : Nat} (hn : 1 ≤ n) :
    (s.waited (n - 1)).advance.inputs = s.inputs.drop n := by
  simp [State.waited, Nat.sub_add_cancel hn]

/-! ### The bits of a frame -/

/-- `s` begins a bit: LOW is entered within a chip-select interval (40_bit_transmitter.md R71). -/
structure State.BitStart (s : State) : Prop where
  params_ok : s.params.Ok
  st_low : s.st = .low
  pcnt_eq : s.pcnt = s.params.settle - 1
  lcdCsN_low : s.lcdCsN = false
  lcdWr_low : s.lcdWr = false
  respValid_low : s.respValid = false

/-- `s`, which begins a bit, when its LOW phase is over. -/
def State.driven (s : State) : State :=
  { s with
    st := .setup, pcnt := s.params.setup - 1, lcdData := s.fsr.getMsbD 0, respValid := false
    inputs := s.inputs.drop s.params.settle }

/-- `s`, which begins a bit, when its SETUP phase is over. -/
def State.strobed (s : State) : State :=
  { s.driven with
    st := .high, pcnt := s.params.settle - 1, lcdWr := true, respValid := false
    inputs := s.driven.inputs.drop s.params.setup }

/-- `s`, which begins a bit, when it begins the next one. -/
def State.bitSent (s : State) : State :=
  { s.strobed with
    st := .low, pcnt := s.params.settle - 1, lcdWr := false, respValid := false
    fsr := s.fsr <<< 1, bcnt := .ofNat 5 (s.bcnt.toNat - 1)
    inputs := s.strobed.inputs.drop s.params.settle }

/-- `s`, which begins the last bit, when the frame has ended. -/
def State.frameSent (s : State) : State :=
  { s.strobed with
    st := .idle, pcnt := 0, lcdCsN := true, respValid := true
    fsr := s.fsr <<< 1, bcnt := 0
    inputs := s.strobed.inputs.drop s.params.settle }

/-- LOW ends where DATA takes the bit at the top of `fsr`; WR stays low. -/
theorem frameRun_low {s : State} (r : Recorder) (bits : List Bool) (hs : s.BitStart)
    (hq : s.QuietReset s.params.settle) :
    FrameRun s.params.settle s (r.sending false bits) s.driven (r.sending false bits) := by
  have hc : s.Counting := .inl hs.st_low
  have hb : s.Busy := ⟨by simp [hs.st_low], hs.lcdCsN_low, hs.respValid_low⟩
  obtain ⟨-, hp, hzero, -⟩ := run_of_phase hc hs.params_ok.1 hs.pcnt_eq hq
  rw [← hs.lcdWr_low]
  refine frameRun_of_phase (t := s.driven) hc hb hs.params_ok.1 hs.pcnt_eq hq ?_
    (r.observe_of_no_rise hs.lcdCsN_low rfl id)
  rw [step_of_low_end hp hs.st_low hzero, State.driven, ← s.waited_last_inputs hs.params_ok.1]
  rfl

/-- SETUP ends where WR rises, and the recorder samples the bit. -/
theorem frameRun_setup {s : State} (r : Recorder) (bits : List Bool) (hs : s.BitStart)
    (hq : s.driven.QuietReset s.params.setup) :
    FrameRun s.params.setup s.driven (r.sending false bits) s.strobed
      (r.sending true (bits ++ [s.fsr.getMsbD 0])) := by
  have hc : s.driven.Counting := .inr (.inl rfl)
  have hb : s.driven.Busy := ⟨by simp [State.driven], hs.lcdCsN_low, rfl⟩
  have hwr : s.driven.lcdWr = false := hs.lcdWr_low
  obtain ⟨-, hp, hzero, -⟩ := run_of_phase hc hs.params_ok.2 rfl hq
  rw [← hwr]
  refine frameRun_of_phase (t := s.strobed) hc hb hs.params_ok.2 rfl hq ?_ ?_
  · rw [step_of_setup_end hp rfl hzero, State.strobed, ← s.driven.waited_last_inputs hs.params_ok.2]
    rfl
  · rw [hwr]
    exact r.observe_of_rise hs.lcdCsN_low rfl rfl

theorem State.strobed_inputs (s : State) :
    s.strobed.inputs = s.inputs.drop (s.params.settle + s.params.setup) :=
  List.drop_drop

/-- The HIGH phase of a bit, which `hend` ends. -/
theorem frameRun_high {s t : State} {q : Recorder} (r : Recorder) (bits : List Bool)
    (hs : s.BitStart) (hq : s.strobed.QuietReset s.params.settle)
    (hend : step (s.strobed.waited (s.params.settle - 1)) = .next t)
    (hobs : (r.sending true bits).observe t = q) :
    FrameRun s.params.settle s.strobed (r.sending true bits) t q :=
  frameRun_of_phase (.inr (.inr rfl)) ⟨by simp [State.strobed], hs.lcdCsN_low, rfl⟩
    hs.params_ok.1 rfl hq hend hobs

theorem period_eq_phases (p : Params) : p.period = p.settle + p.setup + p.settle := by
  simp only [Params.period]
  omega

/-- A whole bit, up to the edge `hend` that ends its HIGH phase: what has been sampled is the bit at the
top of `fsr`. -/
theorem frameRun_period {s t : State} {q : Recorder} (r : Recorder) (bits : List Bool)
    (hs : s.BitStart) (hq : s.QuietReset s.params.period)
    (hend : (s.strobed.waited (s.params.settle - 1)).sampled.noReset = true →
      (s.strobed.waited (s.params.settle - 1)).pcnt = 0 →
      step (s.strobed.waited (s.params.settle - 1)) = .next t)
    (hobs : (r.sending true (bits ++ [s.fsr.getMsbD 0])).observe t = q) :
    FrameRun s.params.period s (r.sending false bits) t q := by
  rw [period_eq_phases] at hq ⊢
  have hhigh : s.strobed.QuietReset s.params.settle := hq.drop s.strobed_inputs
  have hrise : s.QuietReset (s.params.settle + s.params.setup) := hq.mono (Nat.le_add_right _ _)
  obtain ⟨-, hp, hzero, -⟩ := run_of_phase (.inr (.inr rfl)) hs.params_ok.1 rfl hhigh
  have hlow := frameRun_low r bits hs (hrise.mono (Nat.le_add_right _ _))
  have hsetup := frameRun_setup r bits hs (hrise.drop rfl)
  exact (hlow.trans hsetup).trans (frameRun_high r _ hs hhigh (hend hp hzero) hobs)

/-- A bit that is not the last (40_bit_transmitter.md R70). -/
theorem frameRun_bit {s : State} (r : Recorder) (bits : List Bool) (hs : s.BitStart)
    (hmore : 1 < s.bcnt.toNat) (hq : s.QuietReset s.params.period) :
    FrameRun s.params.period s (r.sending false bits) s.bitSent
      (r.sending false (bits ++ [s.fsr.getMsbD 0])) := by
  refine frameRun_period r bits hs hq (fun hp hzero => ?_)
    (r.observe_of_no_rise hs.lcdCsN_low rfl fun _ => rfl)
  rw [step_of_high_next_bit hp rfl hzero hmore, State.bitSent,
    ← s.strobed.waited_last_inputs hs.params_ok.1]
  rfl

/-- The last bit (40_bit_transmitter.md R70). -/
theorem frameRun_lastBit {s : State} (r : Recorder) (bits : List Bool) (hs : s.BitStart)
    (hlast : s.bcnt.toNat = 1) (hq : s.QuietReset s.params.period) :
    FrameRun s.params.period s (r.sending false bits) s.frameSent
      (r.completed (bits ++ [s.fsr.getMsbD 0]) ⟨s.respIgnored, s.respData⟩) := by
  refine frameRun_period r bits hs hq (fun hp hzero => ?_) (r.observe_of_completion rfl rfl rfl)
  rw [step_of_high_last_bit hp rfl hzero hlast, State.frameSent,
    ← s.strobed.waited_last_inputs hs.params_ok.1, ← hzero]
  rfl

theorem State.BitStart.bitSent {s : State} (hs : s.BitStart) : s.bitSent.BitStart :=
  ⟨hs.params_ok, rfl, rfl, hs.lcdCsN_low, rfl, rfl⟩

theorem State.bitSent_bcnt (s : State) : s.bitSent.bcnt.toNat = s.bcnt.toNat - 1 := by
  rw [State.bitSent, BitVec.toNat_ofNat]
  exact Nat.mod_eq_of_lt (by omega)

theorem State.bitSent_inputs (s : State) :
    s.bitSent.inputs = s.inputs.drop s.params.period := by
  rw [period_eq_phases, ← List.drop_drop, ← s.strobed_inputs]
  rfl

/-! ### A whole frame -/

/-- The request has completed with `resp` and the frame is over (10_state.md R16). -/
def State.Answers (u : State) (resp : Response) : Prop :=
  u.st = .idle ∧ u.lcdCsN = true ∧ u.lcdWr = true ∧
    u.respValid = true ∧ u.respIgnored = resp.ignored ∧ u.respData = resp.data

/-- The bits not yet sent, from the first of them on: they leave from the top of `fsr`
(40_bit_transmitter.md R75). -/
def State.bitsLeft (s : State) : List Bool := (List.range s.bcnt.toNat).map s.fsr.getMsbD

theorem State.bitsLeft_length (s : State) : s.bitsLeft.length = s.bcnt.toNat := by
  simp [State.bitsLeft]

theorem State.bitsLeft_of_last {s : State} (h : s.bcnt.toNat = 1) :
    s.bitsLeft = [s.fsr.getMsbD 0] := by
  simp [State.bitsLeft, h]

theorem State.bitsLeft_of_more {s : State} (h : 1 < s.bcnt.toNat) :
    s.bitsLeft = s.fsr.getMsbD 0 :: s.bitSent.bitsLeft := by
  have hcount : s.bcnt.toNat = s.bitSent.bcnt.toNat + 1 := by rw [s.bitSent_bcnt]; omega
  have hshift : s.bitSent.fsr.getMsbD = s.fsr.getMsbD ∘ Nat.succ :=
    funext fun _ => BitVec.getMsbD_shiftLeft s.fsr 1
  rw [State.bitsLeft, hcount, List.range_succ_eq_map, List.map_cons, List.map_map, ← hshift]
  rfl

/-- From the start of a bit, with `n` more to follow it, to the end of the frame. -/
theorem frameRun_bitsLeft {s : State} {n : Nat} (r : Recorder) (bits : List Bool)
    (hs : s.BitStart) (hn : s.bcnt.toNat = n + 1)
    (hq : s.QuietReset ((n + 1) * s.params.period)) :
    ∃ u, FrameRun ((n + 1) * s.params.period) s (r.sending false bits) u
        (r.completed (bits ++ s.bitsLeft) ⟨s.respIgnored, s.respData⟩) ∧
      u.Answers ⟨s.respIgnored, s.respData⟩ := by
  induction n generalizing s bits with
  | zero =>
    rw [Nat.zero_add, Nat.one_mul] at hq ⊢
    rw [s.bitsLeft_of_last hn]
    exact ⟨_, frameRun_lastBit r bits hs hn hq, rfl, rfl, rfl, rfl, rfl, rfl⟩
  | succ n ih =>
    have hmore : 1 < s.bcnt.toNat := by omega
    have hleft : s.bitSent.bcnt.toNat = n + 1 := by rw [s.bitSent_bcnt, hn, Nat.add_sub_cancel]
    rw [Nat.succ_mul, Nat.add_comm] at hq ⊢
    obtain ⟨u, hrun, hans⟩ := ih (bits ++ [s.fsr.getMsbD 0]) hs.bitSent hleft
      (hq.drop s.bitSent_inputs)
    rw [s.bitsLeft_of_more hmore, List.append_cons]
    exact ⟨u, (frameRun_bit r bits hs hmore (hq.mono (Nat.le_add_right _ _))).trans hrun, hans⟩

/-- `s` with a frame in the transmitter, when its first bit begins. -/
def State.leadSent (s : State) : State :=
  { s.advance with lcdWr := false, pcnt := s.params.settle - 1, st := .low, respValid := false }

theorem step_of_lead {s : State} (hp : s.sampled.noReset = true) (hst : s.st = .lead) :
    step s = .next s.leadSent := by
  rw [step_of_frame hp (by simp [hst])]
  simp [State.frameStep, hst, State.stepLead, State.finish, State.leadSent]

/-- From LEAD on, whatever is in the transmitter goes out and the request completes with the response
registers as they stand (40_bit_transmitter.md R76). -/
theorem sendsFrame_of_lead {t : State} (hok : t.params.Ok) (hst : t.st = .lead) (hb : t.Busy)
    (hbcnt : 1 ≤ t.bcnt.toNat) : t.SendsFrame t.bitsLeft ⟨t.respIgnored, t.respData⟩ := by
  intro hq
  obtain ⟨n, hn⟩ := Nat.exists_eq_add_of_le' hbcnt
  rw [t.bitsLeft_length, hn] at hq ⊢
  have hstep : step t = .next t.leadSent :=
    step_of_lead (by simpa [State.waited_zero] using hq.noReset_waited (m := 0) (by omega)) hst
  have hs : t.leadSent.BitStart := ⟨hok, rfl, rfl, hb.lcdCsN_low, rfl, rfl⟩
  obtain ⟨u, hbits, hans⟩ := frameRun_bitsLeft (.startAt t) [] hs hn
    (hq.drop (by simp [State.leadSent, State.advance]))
  have hstart : (Recorder.startAt t).sending t.lcdWr [] = .startAt t := by
    simp [Recorder.sending, Recorder.startAt, hb.lcdCsN_low]
  have hlead := (FrameRun.zero t _).snoc hb hstep
    ((Recorder.startAt t).observe_of_no_rise (wr := t.lcdWr) (bits := []) hs.lcdCsN_low rfl nofun)
  have hrun := hlead.trans hbits
  rw [Nat.zero_add, hstart] at hrun
  refine ⟨⟨u, hrun.run_eq, hans⟩, hrun.record_eq, fun m hm => ?_⟩
  obtain ⟨v, hv, hidle, hcs, hresp⟩ := hrun.busy m hm
  exact ⟨v, hv, hidle, hcs, hresp⟩

/-! ### Frames as the composer opens them -/

/-- A frame in the transmitter goes out most significant bit first (41_frame_composer.md R79). -/
theorem State.load_fsr_getMsbD {L : Nat} (s : State) (f : BitVec L) (hL : L ≤ 17) (k : Nat) :
    (s.load f).fsr.getMsbD k = f.getMsbD k := by
  rw [State.load_fsr, BitVec.getMsbD_shiftLeft, BitVec.getMsbD_setWidth,
    decide_eq_true (Nat.le_add_left _ _), Bool.true_and]
  exact congrArg f.getMsbD (by omega)

/-- A frame of any length the transmitter has (40_bit_transmitter.md R65). -/
theorem startFrame_sendsFrame {L : Nat} (f : BitVec L) {s : State} (hL : 1 ≤ L) (hL' : L ≤ 17)
    (hok : s.params.Ok) :
    ((s.startFrame f).finish false).SendsFrame (bitsMsb f) ⟨s.respIgnored, s.respData⟩ := by
  have hbcnt : ((s.startFrame f).finish false).bcnt.toNat = L := by
    rw [State.finish_bcnt, State.startFrame_bcnt, BitVec.toNat_ofNat]
    exact Nat.mod_eq_of_lt (by omega)
  have hbits : ((s.startFrame f).finish false).bitsLeft = bitsMsb f := by
    rw [State.bitsLeft, hbcnt]
    exact congrArg (List.map · _)
      (funext (({ s with lcdCsN := false } : State).load_fsr_getMsbD f hL'))
  exact hbits ▸ sendsFrame_of_lead hok rfl ⟨nofun, rfl, rfl⟩ (hL.trans hbcnt.ge)

theorem bitsMsb_append {m n : Nat} (v : BitVec m) (w : BitVec n) :
    bitsMsb (v ++ w) = bitsMsb v ++ bitsMsb w := by
  refine List.ext_getElem (by simp) fun k _ _ => ?_
  obtain hk | hk := Nat.lt_or_ge k m
  · simp [bitsMsb_getElem, BitVec.getMsbD_append, hk, hk.not_ge]
  · simp [bitsMsb_getElem, BitVec.getMsbD_append, hk]

/-- Settles O16: the command frame is three parts, the middle one the code. -/
theorem cmdSendsItsFrameAndCompletes : Obligations.CmdSendsItsFrameAndCompletes := by
  intro code s hok _
  have hbits : bitsMsb (cmdFrameWord code) = bitsMsb 0b100#3 ++ bitsMsb code ++ bitsMsb 0b0#1 := by
    rw [cmdFrameWord, bitsMsb_append, bitsMsb_append]
  exact ⟨_, rfl, rfl, rfl, rfl,
    hbits ▸ startFrame_sendsFrame (s := s.respond false code) _ (by decide) (by decide) hok⟩

/-- Settles O17: the write frame is three parts, the last two the address and the data. -/
theorem writeSendsItsFrameAndCompletes : Obligations.WriteSendsItsFrameAndCompletes := by
  intro addr data s hok _
  have hbits : bitsMsb (writeFrameWord addr data) =
      bitsMsb 0b101#3 ++ bitsMsb addr ++ bitsMsb data := by
    rw [writeFrameWord, bitsMsb_append, bitsMsb_append]
  exact ⟨_, rfl, rfl, rfl, rfl,
    hbits ▸ startFrame_sendsFrame (s := s.respond false data) _ (by decide) (by decide) hok⟩

end Sys2Proof.Machine
end

section
/-! The segment encoder (42_segment_encoder.md): which digits have a pattern and what it is (R88, R90,
R91), the DIGIT address (R95), LOOKUP at one edge and over a run of edges (R94), and DIGIT as the
WRITE of its pattern (R93). -/

namespace Sys2Proof.Machine

/-! ### Patterns -/

theorem lutRead_eq_none_iff (d : Digit) : lutRead d = none ↔ 10 ≤ d.toNat :=
  List.getElem?_eq_none_iff

theorem exists_lutRead_iff (d : Digit) : (∃ p, lutRead d = some p) ↔ d.toNat ≤ 9 := by
  rw [← Option.ne_none_iff_exists', ne_eq, lutRead_eq_none_iff, Nat.not_le, Nat.lt_succ_iff]

theorem segmentPattern_of_lutRead {d : Digit} {p : DataByte} (colon : Bool)
    (h : lutRead d = some p) :
    segmentPattern d colon = some (p ||| if colon then 0x10 else 0x00) := by
  rw [segmentPattern, h]
  rfl

theorem segmentPattern_of_ge {d : Digit} (colon : Bool) (h : 10 ≤ d.toNat) :
    segmentPattern d colon = none := by
  rw [segmentPattern, (lutRead_eq_none_iff d).mpr h]
  rfl

/-- The overlay gives no digit a pattern and takes none away. -/
theorem exists_segmentPattern_iff (d : Digit) (colon : Bool) :
    (∃ p, segmentPattern d colon = some p) ↔ d.toNat ≤ 9 := by
  simp [segmentPattern, ← exists_lutRead_iff]

/-- Settles O21: the table is looked up entry by entry, and it ends after ten. -/
theorem segmentTableHoldsTheTenPatterns : Obligations.SegmentTableHoldsTheTenPatterns := by
  refine ⟨rfl, rfl, rfl, rfl, rfl, rfl, rfl, rfl, rfl, rfl, fun d => (lutRead_eq_none_iff d).mpr,
    rfl, ?_⟩
  decide

/-- Settles O22: OR with the empty mask is the base pattern. -/
theorem colonOverlaySetsBitFour : Obligations.ColonOverlaySetsBitFour := by
  intro d hd
  obtain ⟨p, hp⟩ := (exists_lutRead_iff d).mpr hd
  refine ⟨p, hp, segmentPattern_of_lutRead true hp, ?_⟩
  simpa using segmentPattern_of_lutRead false hp

/-! ### The DIGIT address -/

@[simp] theorem digitAddress_getLsbD_zero (pos : Position) :
    (digitAddress pos).getLsbD 0 = false := by
  rw [digitAddress, BitVec.getLsbD_append]
  rfl

@[simp] theorem digitAddress_getLsbD_succ (pos : Position) (k : Nat) :
    (digitAddress pos).getLsbD (k + 1) = pos.getLsbD k := by
  rw [digitAddress, BitVec.getLsbD_append]
  simp

theorem digitAddress_toNat (pos : Position) : (digitAddress pos).toNat = 2 * pos.toNat := by
  rw [digitAddress, BitVec.toNat_append, BitVec.toNat_ofNat, Nat.zero_mod, Nat.or_zero,
    Nat.shiftLeft_eq, Nat.pow_one, Nat.mul_comm]

/-- Settles O24: twice the residue modulo 32 is the residue of twice modulo 64. -/
theorem digitAddressIsTwiceThePosition : Obligations.DigitAddressIsTwiceThePosition := by
  refine ⟨fun pos => ⟨digitAddress_toNat pos, digitAddress_getLsbD_zero pos⟩, fun n => ?_⟩
  apply BitVec.eq_of_toNat_eq
  rw [digitAddress_toNat, BitVec.toNat_ofInt, BitVec.toNat_ofInt]
  omega

/-! ### The response -/

theorem State.respondDigit_of_pattern {d : Digit} {colon : Bool} {p : DataByte}
    (h : segmentPattern d colon = some p) (s : State) :
    s.respondDigit d colon = s.respond false p := by
  rw [State.respondDigit, ← segmentPattern_isNone d colon, h]
  rfl

theorem State.respondDigit_of_no_pattern {d : Digit} {colon : Bool}
    (h : segmentPattern d colon = none) (s : State) :
    s.respondDigit d colon = s.respond true 0x00 := by
  rw [State.respondDigit, ← segmentPattern_isNone d colon, h]
  rfl

/-! ### LOOKUP -/

theorem exec_lookup (colon : Bool) (d : Digit) (s : State) :
    exec (.lookup colon d) s = .next ((s.respondDigit d colon).finish true) := rfl

theorem lookupWord_colon (colon : Bool) (d : Digit) : (lookupWord colon d).getLsbD 4 = colon := by
  rw [lookupWord, BitVec.getLsbD_append, BitVec.getLsbD_append]
  simp

theorem lookupWord_digit (colon : Bool) (d : Digit) :
    (lookupWord colon d).extractLsb' 0 4 = d :=
  BitVec.extractLsb'_append_eq_right

theorem decodeRequest_lookupWord (colon : Bool) (d : Digit) :
    decodeRequest (lookupWord colon d) = .lookup colon d := by
  rw [decodeRequest_of_lookup (lookupWord_op colon d), lookupWord_colon, lookupWord_digit]

/-- The transaction level answers a LOOKUP with what `respondDigit` writes. -/
theorem transact_lookupWord_response (colon : Bool) (d : Digit) :
    (transact (lookupWord colon d)).2 =
      ⟨digitOutOfRange d, (segmentPattern d colon).getD 0x00⟩ := by
  rw [← segmentPattern_isNone d colon]
  simp only [transact, lookupWord_op, lookupWord_colon, lookupWord_digit]
  cases segmentPattern d colon <;> rfl

/-- From IDLE, an offered request is accepted at the next edge. -/
theorem step_of_offer {s : State} {w : RequestWord} {rest : List PortInput} (hst : s.st = .idle)
    (hin : s.inputs = .offer w :: rest) : step s = exec (decodeRequest w) s.advance := by
  have hp : s.sampled = .offer w := by rw [State.sampled, hin]; rfl
  rw [step_eq_clockEdge, clockEdge_of_idle (by rw [hp]; rfl) (by rw [hp]; rfl) hst, hp]
  exact idleEdge_of_request _ rfl rfl rfl

theorem Recorder.observe_responses_of_pulse (r : Recorder) {s : State} (h : s.respValid = true) :
    (r.observe s).responses = r.responses ++ [⟨s.respIgnored, s.respData⟩] :=
  if_pos h

/-- One LOOKUP per edge: each edge leaves the machine in IDLE for the next and adds one response. -/
theorem record_lookups_responses (ops : List (Bool × Digit)) {s : State} (r : Recorder)
    (hst : s.st = .idle)
    (hin : s.inputs = ops.map fun x => PortInput.offer (lookupWord x.1 x.2)) :
    (record ops.length s r).responses =
      r.responses ++ ops.map fun x => (transact (lookupWord x.1 x.2)).2 := by
  induction ops generalizing s r with
  | nil => exact (List.append_nil _).symm
  | cons x ops ih =>
    obtain ⟨colon, d⟩ := x
    have hstep : step s = .next ((s.advance.respondDigit d colon).finish true) := by
      rw [step_of_offer hst hin, decodeRequest_lookupWord, exec_lookup]
    have hidle : ((s.advance.respondDigit d colon).finish true).st = .idle := hst
    have hrest : ((s.advance.respondDigit d colon).finish true).inputs =
        ops.map fun x => PortInput.offer (lookupWord x.1 x.2) := congrArg List.tail hin
    rw [List.length_cons, record_succ hstep, ih _ hidle hrest,
      r.observe_responses_of_pulse (State.finish_respValid _ _), List.append_assoc, List.map_cons,
      transact_lookupWord_response]
    rfl

/-- Settles O13: the edge by whether the digit has a pattern, the run by induction on its edges. -/
theorem lookupAnswersAtOnce : Obligations.LookupAnswersAtOnce := by
  refine ⟨fun colon d s _ => ⟨fun hd => ?_, fun hd => ?_⟩,
    fun ops s => record_lookups_responses ops (.startAt s)⟩
  · obtain ⟨p, hp⟩ := (exists_lutRead_iff d).mpr hd
    refine ⟨p, hp, ?_⟩
    rw [exec_lookup, State.respondDigit_of_pattern (segmentPattern_of_lutRead colon hp)]
    rfl
  · rw [exec_lookup, State.respondDigit_of_no_pattern (segmentPattern_of_ge colon hd)]
    rfl

/-! ### DIGIT -/

/-- A DIGIT whose digit has a pattern is the WRITE of the pattern (42_segment_encoder.md R93). -/
theorem exec_digit_eq_exec_write {d : Digit} {colon : Bool} {p : DataByte}
    (h : segmentPattern d colon = some p) (pos : Position) (s : State) :
    exec (.digit pos colon d) s = exec (.write (digitAddress pos) p) s := by
  change execDigit pos colon d s = execWrite (digitAddress pos) p s
  rw [execDigit_some h, State.respondDigit_of_pattern h]
  rfl

/-- A DIGIT whose digit has none completes at its accepting edge. -/
theorem exec_digit_of_no_pattern {d : Digit} {colon : Bool} (h : segmentPattern d colon = none)
    (pos : Position) (s : State) :
    exec (.digit pos colon d) s = .next ((s.respond true 0x00).finish true) := by
  change execDigit pos colon d s = _
  rw [execDigit_none h, State.respondDigit_of_no_pattern h]

/-- Settles O18: with a pattern DIGIT is a WRITE, whose frame O17 tells; without one it is ignored. -/
theorem digitSendsItsPatternOrIsIgnored : Obligations.DigitSendsItsPatternOrIsIgnored := by
  intro pos colon d s hok hst
  have hrange := exists_segmentPattern_iff d colon
  cases hp : segmentPattern d colon with
  | some p =>
    obtain ⟨t, hexec, hignored, hdata, hvalid, hsends⟩ :=
      writeSendsItsFrameAndCompletes (digitAddress pos) p s hok hst
    refine ⟨t, (exec_digit_eq_exec_write hp pos s).trans hexec, fun q hq => ?_,
      hp ▸ hrange.symm, fun hge => absurd (hrange.mp ⟨p, hp⟩) (by omega)⟩
    obtain rfl : p = q := Option.some.inj hq
    exact ⟨hignored, hdata, hvalid, by
      simpa only [digitAddress_getLsbD_zero, digitAddress_getLsbD_succ] using hsends⟩
  | none =>
    exact ⟨_, exec_digit_of_no_pattern hp pos s, nofun, hp ▸ hrange.symm, fun _ => rfl⟩

end Sys2Proof.Machine
end

section
/-! No edge faults and no request fails once accepted (60_exceptions.md R97). -/

namespace Sys2Proof.Machine

/-- Settles O48: a decoded word is an instruction, and every instruction answers a next state in every
state, so IDLE, where alone a word can be accepted, is not needed for it. -/
theorem everyEdgeAnswersANextState : Obligations.EveryEdgeAnswersANextState :=
  ⟨step_answers_next, fun w s _ => exec_answers_next (decodeRequest w) s⟩

end Sys2Proof.Machine
end

section
/-! The response registers out of reset (70_reset_and_hazards.md R118) and the reset edge (R111). -/

namespace Sys2Proof.Machine

/-! ### The response of the request accepted last -/

/-- DIGIT and LOOKUP answer alike (42_segment_encoder.md R93, R94): the flag and the pattern that
`respondDigit` writes. -/
theorem transact_response_of_digit_or_lookup {w : RequestWord}
    (hop : w.extractLsb' 14 2 = 0b10#2 ∨ w.extractLsb' 14 2 = 0b11#2) :
    (transact w).2 = ⟨digitOutOfRange (w.extractLsb' 0 4),
      (segmentPattern (w.extractLsb' 0 4) (w.getLsbD 4)).getD 0x00⟩ := by
  rw [← segmentPattern_isNone _ (w.getLsbD 4)]
  obtain hop | hop := hop
  all_goals
    simp only [transact, hop]
    cases segmentPattern (w.extractLsb' 0 4) (w.getLsbD 4) <;> rfl

theorem exec_digit_response {pos : Position} {colon : Bool} {d : Digit} {s t : State}
    (h : exec (.digit pos colon d) s = .next t) :
    (⟨t.respIgnored, t.respData⟩ : Response) =
      ⟨digitOutOfRange d, (segmentPattern d colon).getD 0x00⟩ := by
  change execDigit pos colon d s = .next t at h
  cases hp : segmentPattern d colon with
  | some p => rw [execDigit_some hp] at h; cases h; simp [hp]
  | none => rw [execDigit_none hp] at h; cases h; simp [hp]

/-- What a request writes is what the transaction level answers (10_state.md R31). -/
theorem exec_decodeRequest_response {w : RequestWord} {s t : State}
    (h : exec (decodeRequest w) s = .next t) :
    (⟨t.respIgnored, t.respData⟩ : Response) = (transact w).2 := by
  obtain hop | hop | hop | hop := op_cases w
  · rw [decodeRequest_of_cmd hop] at h
    cases h
    simp [transact, hop]
  · rw [decodeRequest_of_write hop] at h
    cases h
    simp [transact, hop]
  · rw [decodeRequest_of_digit hop] at h
    rw [exec_digit_response h, transact_response_of_digit_or_lookup (.inl hop)]
  · rw [decodeRequest_of_lookup hop] at h
    cases h
    exact (transact_response_of_digit_or_lookup (.inr hop)).symm

theorem State.frameStep_respData (s : State) : s.frameStep.respData = s.respData := by
  unfold State.frameStep
  cases s.st with
  | idle | lead => rfl
  | low => rw [State.stepLow]; split_ifs <;> rfl
  | setup => rw [State.stepSetup]; split_ifs <;> rfl
  | high => rw [State.stepHigh, State.finishBit]; split_ifs <;> rfl

/-- Out of reset, an edge that accepts nothing is a quiet edge in IDLE or the sequencer's. -/
theorem step_of_accepts_none {s : State} (hs : s.Running) (ha : s.accepts = none) :
    step s = .next (s.advance.finish false) ∨ step s = .next s.advance.frameStep := by
  obtain ⟨hsync, hrst⟩ := hs
  obtain ⟨hr, hi⟩ := s.synchronous_iff.mp hsync
  by_cases hst : s.st = .idle
  · have hq : s.sampled.reqValid = false := by
      simpa [State.accepts_of_synchronous hsync, hrst, hst] using ha
    exact .inl ((clockEdge_of_idle hr hrst hst).trans
      (idleEdge_of_no_request _ (hi hrst hst).1 hq))
  · exact .inr (clockEdge_of_frame hr hrst hst)

theorem step_respData_of_accepts_none {s t : State} (hs : s.Running) (ha : s.accepts = none)
    (h : step s = .next t) : t.respData = s.respData := by
  obtain hstep | hstep := step_of_accepts_none hs ha
  · cases hstep.symm.trans h
    rfl
  · cases hstep.symm.trans h
    exact s.advance.frameStep_respData

/-- Settles O36: an accepting edge is the meaning of the decoded word, and no other edge out of reset
writes the two registers. -/
theorem responseLastsUntilTheNextAcceptance : Obligations.ResponseLastsUntilTheNextAcceptance :=
  fun _ _ hs h =>
    ⟨fun _ ha => exec_decodeRequest_response ((step_of_accepts hs.1 ha).symm.trans h),
      fun ha => ⟨step_respIgnored_of_accepts_none hs ha h, step_respData_of_accepts_none hs ha h⟩⟩

/-! ### The reset edge -/

theorem State.synchronous_of_reset {s : State} (hr : s.sampled.rstNStable = true)
    (h : s.sampled.rstN = false) : s.synchronous = true := by
  simp [s.synchronous_iff, hr, h]

theorem State.reqReady_of_reset {s : State} (h : s.sampled.rstN = false) : s.reqReady = false := by
  simp [State.reqReady, h]

theorem State.accepts_of_reset {s : State} (hr : s.sampled.rstNStable = true)
    (h : s.sampled.rstN = false) : s.accepts = none := by
  simp [State.accepts_of_synchronous (State.synchronous_of_reset hr h), h]

/-- Settles O38: reset is read before the sequencer state and before the request port. -/
theorem resetEdgeWritesEveryResetValue : Obligations.ResetEdgeWritesEveryResetValue :=
  fun _ hr h =>
    ⟨State.reqReady_of_reset h, State.accepts_of_reset hr h, clockEdge_of_reset hr h⟩

end Sys2Proof.Machine
end

section
/-! Decoding what the encoder wrote: request words (30_encoding.md R51 to R56) and wire frames (R58 to
R60), and the statements on the round trip in either direction and on a frame's first bits. -/

namespace Sys2Proof

/-! ### Request words -/

theorem cmdWord_code (code : CommandCode) : (cmdWord code).extractLsb' 0 8 = code :=
  BitVec.extractLsb'_append_eq_right

theorem writeWord_addr (addr : Address) (data : DataByte) :
    (writeWord addr data).extractLsb' 8 6 = addr := by
  apply BitVec.eq_of_toNat_eq
  rw [extractLsb_toNat_eq, writeWord_toNat]
  omega

theorem writeWord_data (addr : Address) (data : DataByte) :
    (writeWord addr data).extractLsb' 0 8 = data :=
  BitVec.extractLsb'_append_eq_right

theorem digitWord_pos (pos : Position) (colon : Bool) (dg : Digit) :
    (digitWord pos colon dg).extractLsb' 9 5 = pos := by
  apply BitVec.eq_of_toNat_eq
  have hk := colon.toNat_le
  rw [extractLsb_toNat_eq, digitWord_toNat]
  omega

theorem digitWord_colon (pos : Position) (colon : Bool) (dg : Digit) :
    (digitWord pos colon dg).getLsbD 4 = colon := by
  rw [digitWord, BitVec.getLsbD_append, BitVec.getLsbD_append]
  simp

theorem digitWord_digit (pos : Position) (colon : Bool) (dg : Digit) :
    (digitWord pos colon dg).extractLsb' 0 4 = dg :=
  BitVec.extractLsb'_append_eq_right

theorem decodeRequest_cmdWord (code : CommandCode) : decodeRequest (cmdWord code) = .cmd code := by
  rw [decodeRequest_of_cmd (cmdWord_op code), cmdWord_code]

theorem decodeRequest_writeWord (addr : Address) (data : DataByte) :
    decodeRequest (writeWord addr data) = .write addr data := by
  rw [decodeRequest_of_write (writeWord_op addr data), writeWord_addr, writeWord_data]

theorem decodeRequest_digitWord (pos : Position) (colon : Bool) (dg : Digit) :
    decodeRequest (digitWord pos colon dg) = .digit pos colon dg := by
  rw [decodeRequest_of_digit (digitWord_op pos colon dg), digitWord_pos, digitWord_colon,
    digitWord_digit]

/-! ### Wire frames -/

/-- A command frame begins with `100` and has 12 bits and 0 in its don't-care bit. -/
theorem decodeFrame_cmdFrameWord (code : CommandCode) :
    decodeFrame (bitsMsb (cmdFrameWord code)) = .ok (.frameCmd code) := by
  have hparts : bitsMsb (cmdFrameWord code) = [true, false, false] ++ bitsMsb code ++ [false] := by
    rw [cmdFrameWord, Machine.bitsMsb_append, Machine.bitsMsb_append]
    rfl
  have hmode : (bitsMsb (cmdFrameWord code)).take 3 = [true, false, false] := by
    rw [hparts]
    rfl
  have hlast : (bitsMsb (cmdFrameWord code)).getLast? = some false := by
    rw [hparts, List.getLast?_concat]
  have hcode : BitVec.ofNat 8 ((0x800 + 2 * code.toNat) / 2) = code := by
    apply BitVec.eq_of_toNat_eq
    rw [BitVec.toNat_ofNat]
    omega
  simp only [decodeFrame, hmode, bitsMsb_length, hlast, if_true, bitsValue_bitsMsb,
    cmdFrameWord_toNat, hcode]

/-- A write frame begins with `101` and has 17 bits. -/
theorem decodeFrame_writeFrameWord (addr : Address) (data : DataByte) :
    decodeFrame (bitsMsb (writeFrameWord addr data)) = .ok (.frameWrite addr data) := by
  have hmode : (bitsMsb (writeFrameWord addr data)).take 3 = [true, false, true] := by
    rw [writeFrameWord, Machine.bitsMsb_append, Machine.bitsMsb_append]
    rfl
  have hne : [true, false, true] ≠ [true, false, false] := by decide
  have haddr : BitVec.ofNat 6 ((0x14000 + 256 * addr.toNat + data.toNat) / 256) = addr := by
    apply BitVec.eq_of_toNat_eq
    rw [BitVec.toNat_ofNat]
    omega
  have hdata : BitVec.ofNat 8 (0x14000 + 256 * addr.toNat + data.toNat) = data := by
    apply BitVec.eq_of_toNat_eq
    rw [BitVec.toNat_ofNat]
    omega
  simp only [decodeFrame, hmode, hne, bitsMsb_length, if_true, if_false, bitsValue_bitsMsb,
    writeFrameWord_toNat, haddr, hdata]

/-- Settles O2: each format's fields are read where the encoder put them. -/
theorem decodeOfEncodeIsTheInstruction : Obligations.DecodeOfEncodeIsTheInstruction := by
  intro i
  cases i with
  | cmd code => exact congrArg Except.ok (decodeRequest_cmdWord code)
  | write addr data => exact congrArg Except.ok (decodeRequest_writeWord addr data)
  | digit pos colon dg => exact congrArg Except.ok (decodeRequest_digitWord pos colon dg)
  | lookup colon dg => exact congrArg Except.ok (Machine.decodeRequest_lookupWord colon dg)
  | frameCmd code => exact decodeFrame_cmdFrameWord code
  | frameWrite addr data => exact decodeFrame_writeFrameWord addr data

/-- Settles O5: the words are decoded as they stand. -/
theorem sampleWordsDecodeAsTheSpecWrites : Obligations.SampleWordsDecodeAsTheSpecWrites := by
  unfold Obligations.SampleWordsDecodeAsTheSpecWrites
  decide

/-! ### Reserved bits -/

/-- Each format bit and field stands where it stood; the mask of R55 clears the rest. -/
theorem carrierWord_decodeRequest (w : RequestWord) :
    carrierWord (decodeRequest w) = clearReserved w := by
  have hcolon : BitVec.ofBool (w.getLsbD 4) = w.extractLsb' 4 1 := by
    apply BitVec.eq_of_getLsbD_eq; intro k hk; interval_cases k; simp
  apply BitVec.eq_of_getLsbD_eq
  intro k hk
  obtain h | h | h | h := op_cases w
  · rw [decodeRequest_of_cmd h, clearReserved_of_cmd h, carrierWord, cmdWord, ← h,
      BitVec.getLsbD_and, BitVec.getLsbD_append, BitVec.getLsbD_append]
    interval_cases k <;> simp
  · rw [decodeRequest_of_write h, clearReserved_of_write h, carrierWord, writeWord, ← h,
      BitVec.getLsbD_append, BitVec.getLsbD_append]
    interval_cases k <;> simp
  · rw [decodeRequest_of_digit h, clearReserved_of_digit h, carrierWord, digitWord, ← h, hcolon,
      BitVec.getLsbD_and, BitVec.getLsbD_append, BitVec.getLsbD_append, BitVec.getLsbD_append,
      BitVec.getLsbD_append]
    interval_cases k <;> simp
  · rw [decodeRequest_of_lookup h, clearReserved_of_lookup h, carrierWord, lookupWord, ← h, hcolon,
      BitVec.getLsbD_and, BitVec.getLsbD_append, BitVec.getLsbD_append, BitVec.getLsbD_append]
    interval_cases k <;> simp

/-- Settles O3: the encoder writes what `carrierWord` does, for a request. -/
theorem encodeOfDecodeClearsReservedBits : Obligations.EncodeOfDecodeClearsReservedBits := by
  intro w
  rw [encode_eq_carrierWord (decodeRequest_isRequest w), carrierWord_decodeRequest]

/-! ### A frame's first three bits -/

/-- What a receiver accepts begins as a kind of frame and has its length (30_encoding.md R60). -/
theorem decodeFrame_eq_ok {bits : List Bool} {i : Instr} (h : decodeFrame bits = .ok i) :
    (bits.take 3 = [true, false, false] ∧ bits.length = 12 ∧ ∃ code, i = .frameCmd code) ∨
    (bits.take 3 = [true, false, true] ∧ bits.length = 17 ∧
      ∃ addr data, i = .frameWrite addr data) := by
  unfold decodeFrame at h
  split_ifs at h with hcmd hlen hlast hwr hlen
  · exact .inl ⟨hcmd, hlen, _, (Except.ok.inj h).symm⟩
  · exact .inr ⟨hwr, hlen, _, _, (Except.ok.inj h).symm⟩

/-- Settles O6. -/
theorem modePrefixTellsKindAndLength : Obligations.ModePrefixTellsKindAndLength := by
  refine ⟨fun bits i => decodeFrame_eq_ok, fun w f _ => ?_⟩
  cases f with
  | cmd code => exact ⟨bitsMsb_length _, decodeFrame_cmdFrameWord code⟩
  | wr addr data => exact ⟨bitsMsb_length _, decodeFrame_writeFrameWord addr data⟩

end Sys2Proof
end

section
/-! The accepting edge of each instruction as one equation (41_frame_composer.md R78 to R81,
42_segment_encoder.md R93, R94), what it leaves unchanged, and the request placed on the port. -/

namespace Sys2Proof.Machine

/-! ### Opening a frame -/

/-- The loaded frame as a number (40_bit_transmitter.md R66). -/
theorem setWidth_shiftLeft_eq_ofNat {L : Nat} (f : BitVec L) (n : Nat) :
    f.setWidth 17 <<< n = BitVec.ofNat 17 (f.toNat * 2 ^ n) := by
  apply BitVec.eq_of_toNat_eq
  simp [BitVec.toNat_shiftLeft, Nat.shiftLeft_eq]

theorem State.startFrame_cmdFrameWord (s : State) (code : CommandCode) :
    s.startFrame (cmdFrameWord code) =
      { s with
        lcdCsN := false, st := .lead, bcnt := 12, pcnt := 0
        fsr := BitVec.ofNat 17 ((0x800 + 2 * code.toNat) * 32) } := by
  rw [State.startFrame, State.load, setWidth_shiftLeft_eq_ofNat, cmdFrameWord_toNat]
  rfl

theorem State.startFrame_writeFrameWord (s : State) (addr : Address) (data : DataByte) :
    s.startFrame (writeFrameWord addr data) =
      { s with
        lcdCsN := false, st := .lead, bcnt := 17, pcnt := 0
        fsr := BitVec.ofNat 17 (0x14000 + 256 * addr.toNat + data.toNat) } := by
  rw [State.startFrame, State.load, setWidth_shiftLeft_eq_ofNat, writeFrameWord_toNat, Nat.sub_self,
    Nat.pow_zero, Nat.mul_one]
  rfl

theorem exec_cmd (code : CommandCode) (s : State) :
    exec (.cmd code) s =
      .next (((s.respond false code).startFrame (cmdFrameWord code)).finish false) := rfl

theorem exec_write (addr : Address) (data : DataByte) (s : State) :
    exec (.write addr data) s =
      .next (((s.respond false data).startFrame (writeFrameWord addr data)).finish false) := rfl

theorem exec_frameCmd (code : CommandCode) (s : State) :
    exec (.frameCmd code) s = .next ((s.startFrame (cmdFrameWord code)).finish false) := rfl

theorem exec_frameWrite (addr : Address) (data : DataByte) (s : State) :
    exec (.frameWrite addr data) s =
      .next ((s.startFrame (writeFrameWord addr data)).finish false) := rfl

/-- Settles O10. -/
theorem cmdOpensItsFrame : Obligations.CmdOpensItsFrame := by
  intro code s _
  rw [exec_cmd, State.startFrame_cmdFrameWord]
  rfl

/-- Settles O11. -/
theorem writeOpensItsFrame : Obligations.WriteOpensItsFrame := by
  intro addr data s _
  rw [exec_write, State.startFrame_writeFrameWord]
  rfl

/-- Settles O14: the composer opens a wire frame as it opens a request's. -/
theorem wireFramesAreOpenedByTheComposer : Obligations.WireFramesAreOpenedByTheComposer := by
  refine ⟨fun code s _ => ?_, fun addr data s _ => ?_⟩
  · rw [exec_frameCmd, State.startFrame_cmdFrameWord]
    rfl
  · rw [exec_frameWrite, State.startFrame_writeFrameWord]
    rfl

/-- Settles O12: with a pattern DIGIT is the WRITE of O11, whose address is `2·pos`. -/
theorem digitOpensItsFrameOrIsIgnored : Obligations.DigitOpensItsFrameOrIsIgnored := by
  refine fun pos colon d s hst => ⟨fun hd => ?_, fun hd => ?_⟩
  · obtain ⟨p, hp⟩ := (exists_lutRead_iff d).mpr hd
    refine ⟨p, hp, ?_⟩
    rw [exec_digit_eq_exec_write (segmentPattern_of_lutRead colon hp),
      writeOpensItsFrame _ _ s hst, digitAddress_toNat]
  · rw [exec_digit_of_no_pattern (segmentPattern_of_ge colon hd)]
    rfl

/-- Settles O19: `startFrame_sendsFrame` at the lengths of the two frames. -/
theorem wireFramesGoOutBitByBit : Obligations.WireFramesGoOutBitByBit :=
  ⟨fun code s hok _ => ⟨_, exec_frameCmd code s,
      startFrame_sendsFrame _ (by decide) (by decide) hok⟩,
    fun addr data s hok _ => ⟨_, exec_frameWrite addr data s,
      startFrame_sendsFrame _ (by decide) (by decide) hok⟩⟩

/-! ### The two shapes of an accepting edge -/

/-- A frame's bits as a word (41_frame_composer.md R79). -/
def Frame.word : (f : Frame) → BitVec f.len
  | .cmd code => cmdFrameWord code
  | .wr addr data => writeFrameWord addr data

theorem Frame.bitsMsb_word (f : Frame) : bitsMsb f.word = f.bits := by
  cases f <;> rfl

theorem Frame.len_pos (f : Frame) : 1 ≤ f.len := by
  cases f <;> simp [Frame.len]

theorem Frame.len_le (f : Frame) : f.len ≤ 17 := by
  cases f <;> simp [Frame.len]

/-- The machine when a request without a frame has been accepted with `resp`. -/
def State.answered (s : State) (resp : Response) : State :=
  (s.respond resp.ignored resp.data).finish true

/-- The machine when a request with the frame `f` has been accepted with `resp`. -/
def State.opened (s : State) (resp : Response) (f : Frame) : State :=
  ((s.respond resp.ignored resp.data).startFrame f.word).finish false

/-- A request does the same in every state: it answers at once, or it opens its frame. -/
theorem exec_request {i : Instr} (hi : i.isRequest = true) :
    (opensFrame i = false ∧ ∃ resp, ∀ s, exec i s = .next (s.answered resp)) ∨
    (opensFrame i = true ∧ ∃ resp f, ∀ s, exec i s = .next (s.opened resp f)) := by
  cases i with
  | cmd code => exact .inr ⟨rfl, ⟨false, code⟩, .cmd code, fun _ => rfl⟩
  | write addr data => exact .inr ⟨rfl, ⟨false, data⟩, .wr addr data, fun _ => rfl⟩
  | lookup colon d => exact .inl ⟨rfl, ⟨_, _⟩, fun _ => rfl⟩
  | digit pos colon d =>
    have hopens : opensFrame (.digit pos colon d) = !(segmentPattern d colon).isNone :=
      congrArg not (segmentPattern_isNone d colon).symm
    cases hp : segmentPattern d colon with
    | some p =>
      exact .inr ⟨by rw [hopens, hp]; rfl, ⟨false, p⟩, .wr (digitAddress pos) p,
        exec_digit_eq_exec_write hp pos⟩
    | none =>
      exact .inl ⟨by rw [hopens, hp]; rfl, ⟨true, 0x00⟩, exec_digit_of_no_pattern hp pos⟩
  | frameCmd code | frameWrite addr data => cases hi

/-! ### What an accepting edge leaves unchanged -/

/-- No instruction writes WR, DATA, or what is not the SPE's to write. -/
theorem exec_keeps {i : Instr} {s t : State} (h : exec i s = .next t) :
    t.lcdWr = s.lcdWr ∧ t.lcdData = s.lcdData ∧
      t.params = s.params ∧ t.inputs = s.inputs ∧ t.draws = s.draws := by
  cases hi : i.isRequest with
  | true =>
    obtain ⟨-, resp, hexec⟩ | ⟨-, resp, f, hexec⟩ := exec_request hi
    all_goals
      cases (hexec s).symm.trans h
      exact ⟨rfl, rfl, rfl, rfl, rfl⟩
  | false =>
    cases i with
    | cmd code | write addr data | digit pos colon d | lookup colon d => cases hi
    | frameCmd code | frameWrite addr data =>
      cases h
      exact ⟨rfl, rfl, rfl, rfl, rfl⟩

/-- Settles O15: `exec_keeps`, that what opens no frame only answers, and that a wire frame writes no
response. -/
theorem acceptingEdgeChangesOnlyWhatItsRuleNames :
    Obligations.AcceptingEdgeChangesOnlyWhatItsRuleNames := by
  intro i s t _ h
  obtain ⟨hwr, hdata, hparams, hinputs, hdraws⟩ := exec_keeps h
  refine ⟨hwr, hdata, hparams, hinputs, hdraws, fun hi => ?_, fun hi => ?_⟩
  · obtain ⟨hreq, hno⟩ : i.isRequest = true ∧ opensFrame i = false := by
      obtain ⟨colon, d, rfl⟩ | ⟨pos, colon, d, rfl, hd⟩ := hi
      · exact ⟨rfl, rfl⟩
      · exact ⟨rfl, by simpa [opensFrame, digitOutOfRange] using Nat.lt_of_succ_le hd⟩
    obtain ⟨-, resp, hexec⟩ | ⟨ho, -⟩ := exec_request hreq
    · cases (hexec s).symm.trans h
      exact ⟨rfl, rfl, rfl, rfl, rfl⟩
    · exact absurd hno (by simp [ho])
  · cases i with
    | cmd code | write addr data | digit pos colon d | lookup colon d => cases hi
    | frameCmd code | frameWrite addr data =>
      cases h
      exact ⟨rfl, rfl⟩

/-- Settles O20: a request does the same in every state, and what it leaves unchanged is alike in any
two legal states in IDLE (10_state.md R29 (a)). -/
theorem equalRequestsFromIdleDoTheSame : Obligations.EqualRequestsFromIdleDoTheSame := by
  intro i s s' t t' hi hs hs' hst hst' ht ht'
  obtain ⟨hfsr, hbcnt, hpcnt, hcs, hwr⟩ := hs.idle_shape hst
  obtain ⟨hfsr', hbcnt', hpcnt', hcs', hwr'⟩ := hs'.idle_shape hst'
  have hwr_eq : s.lcdWr = s'.lcdWr := hwr.trans hwr'.symm
  obtain ⟨-, resp, hexec⟩ | ⟨-, resp, f, hexec⟩ := exec_request hi
  all_goals
    cases (hexec s).symm.trans ht
    cases (hexec s').symm.trans ht'
  · exact ⟨hst.trans hst'.symm, hfsr.trans hfsr'.symm, hbcnt.trans hbcnt'.symm,
      hpcnt.trans hpcnt'.symm, hcs.trans hcs'.symm, hwr_eq, rfl, rfl, rfl⟩
  · exact ⟨rfl, rfl, rfl, rfl, rfl, hwr_eq, rfl, rfl, rfl⟩

/-! ### A request placed on the port (log 6, log 10) -/

theorem State.offering_st (s : State) (w : RequestWord) : (s.offering w).st = .idle := by
  unfold State.offering
  split_ifs with h
  · exact h
  · rfl

theorem State.offering_inputs (s : State) (w : RequestWord) :
    (s.offering w).inputs = .offer w :: s.inputs.tail := rfl

theorem step_offering (s : State) (w : RequestWord) :
    step (s.offering w) = exec (decodeRequest w) (s.offering w).advance :=
  step_of_offer (s.offering_st w) (s.offering_inputs w)

/-- An idle machine accepts what it is offered. -/
theorem State.accepts_of_offer {s : State} {w : RequestWord} (hst : s.st = .idle)
    (hp : s.sampled = .offer w) : s.accepts = some w := by
  simp [State.accepts, hp, hst, PortInput.offer, PortInput.settled]

theorem State.withFetchWord_request (s : State) (w : RequestWord) :
    s.withFetchWord 16 w.toNat = s.offering w := by
  simp [State.withFetchWord, State.placeTableWord, tableWord, w.isLt]

theorem State.withFetchWord_frameCmd (s : State) (code : CommandCode) :
    s.withFetchWord 12 (cmdFrameWord code).toNat = s.offering (cmdWord code) := by
  simp [State.withFetchWord, State.placeTableWord, tableWord, (cmdFrameWord code).isLt,
    decodeFrame_cmdFrameWord, carrierWord]

theorem State.withFetchWord_frameWrite (s : State) (addr : Address) (data : DataByte) :
    s.withFetchWord 17 (writeFrameWord addr data).toNat = s.offering (writeWord addr data) := by
  simp [State.withFetchWord, State.placeTableWord, tableWord, (writeFrameWord addr data).isLt,
    decodeFrame_writeFrameWord, carrierWord]

/-- Settles O7: a placed word is an offered one, and a wire frame's is the word that carries it. -/
theorem stepRunsTheDecodedRequest : Obligations.StepRunsTheDecodedRequest := by
  refine ⟨fun s w => step_of_accepts, fun s w => ?_, fun s code => ?_, fun s addr data => ?_⟩
  · rw [s.withFetchWord_request]
    exact ⟨State.accepts_of_offer (s.offering_st w) rfl, step_offering s w⟩
  · rw [s.withFetchWord_frameCmd, step_offering, decodeRequest_cmdWord]
  · rw [s.withFetchWord_frameWrite, step_offering, decodeRequest_writeWord]

end Sys2Proof.Machine
end

section
/-! The accepting edge at the transaction level (10_state.md R31), and all that an edge without reset can
do (R30), said once: the statements on the pins, the pulse and DATA read it case by case. -/

namespace Sys2Proof.Machine

/-! ### The transaction of a request word, by its format -/

theorem transact_of_cmd {w : RequestWord} (h : w.extractLsb' 14 2 = 0b00#2) :
    transact w = ([.cmd (w.extractLsb' 0 8)], ⟨false, w.extractLsb' 0 8⟩) := by
  simp [transact, h]

theorem transact_of_write {w : RequestWord} (h : w.extractLsb' 14 2 = 0b01#2) :
    transact w =
      ([.wr (w.extractLsb' 8 6) (w.extractLsb' 0 8)], ⟨false, w.extractLsb' 0 8⟩) := by
  simp [transact, h]

theorem transact_of_digit_pattern {w : RequestWord} {p : DataByte}
    (h : w.extractLsb' 14 2 = 0b10#2)
    (hp : segmentPattern (w.extractLsb' 0 4) (w.getLsbD 4) = some p) :
    transact w = ([.wr (digitAddress (w.extractLsb' 9 5)) p], ⟨false, p⟩) := by
  simp only [transact, h, hp]
  rfl

theorem transact_of_digit_no_pattern {w : RequestWord} (h : w.extractLsb' 14 2 = 0b10#2)
    (hp : segmentPattern (w.extractLsb' 0 4) (w.getLsbD 4) = none) :
    transact w = ([], ⟨true, 0x00⟩) := by
  simp only [transact, h, hp]
  rfl

theorem transact_frames_of_lookup {w : RequestWord} (h : w.extractLsb' 14 2 = 0b11#2) :
    (transact w).1 = [] := by
  simp only [transact, h]
  cases segmentPattern (w.extractLsb' 0 4) (w.getLsbD 4) <;> rfl

/-- A request sends at most one frame. -/
theorem transact_frames_cases (w : RequestWord) :
    (transact w).1 = [] ∨ ∃ f, (transact w).1 = [f] := by
  obtain h | h | h | h := op_cases w
  · exact .inr ⟨_, congrArg Prod.fst (transact_of_cmd h)⟩
  · exact .inr ⟨_, congrArg Prod.fst (transact_of_write h)⟩
  · cases hp : segmentPattern (w.extractLsb' 0 4) (w.getLsbD 4) with
    | some p => exact .inr ⟨_, congrArg Prod.fst (transact_of_digit_pattern h hp)⟩
    | none => exact .inl (congrArg Prod.fst (transact_of_digit_no_pattern h hp))
  · exact .inl (transact_frames_of_lookup h)

/-! ### The meaning of a request word -/

theorem exec_decodeRequest_of_no_frame {w : RequestWord} (h : (transact w).1 = []) (s : State) :
    exec (decodeRequest w) s = .next (s.answered (transact w).2) := by
  obtain ⟨-, resp, hexec⟩ | ⟨ho, -⟩ := exec_request (decodeRequest_isRequest w)
  · have hresp : resp = (transact w).2 := exec_decodeRequest_response (hexec s)
    rw [hexec, hresp]
  · exact absurd h ((opensFrame_decodeRequest w).mp ho)

theorem exec_decodeRequest_of_frame {w : RequestWord} {f : Frame} (h : (transact w).1 = [f])
    (s : State) : exec (decodeRequest w) s = .next (s.opened (transact w).2 f) := by
  obtain hop | hop | hop | hop := op_cases w
  · rw [transact_of_cmd hop] at h ⊢
    cases h
    rw [decodeRequest_of_cmd hop]
    rfl
  · rw [transact_of_write hop] at h ⊢
    cases h
    rw [decodeRequest_of_write hop]
    rfl
  · cases hp : segmentPattern (w.extractLsb' 0 4) (w.getLsbD 4) with
    | some p =>
      rw [transact_of_digit_pattern hop hp] at h ⊢
      cases h
      rw [decodeRequest_of_digit hop, exec_digit_eq_exec_write hp]
      rfl
    | none =>
      rw [transact_of_digit_no_pattern hop hp] at h
      cases h
  · rw [transact_frames_of_lookup hop] at h
    cases h

/-! ### All an edge without reset can do -/

/-- The machine may go from the state `s` to this one at an edge without reset that reads synchronous
ports (10_state.md R30, 40_bit_transmitter.md R67 to R70). -/
inductive Edge (s : State) : State → Prop
  /-- Nothing is offered in IDLE. -/
  | quiet (hst : s.st = .idle) (ha : s.accepts = none) : Edge s (s.advance.finish false)
  /-- A request without a frame completes at once. -/
  | answer (hst : s.st = .idle) {w : RequestWord} (ha : s.accepts = some w)
      (hf : (transact w).1 = []) : Edge s (s.advance.answered (transact w).2)
  /-- A request with a frame opens it. -/
  | opening (hst : s.st = .idle) {w : RequestWord} {f : Frame} (ha : s.accepts = some w)
      (hf : (transact w).1 = [f]) : Edge s (s.advance.opened (transact w).2 f)
  | lead (hst : s.st = .lead) : Edge s s.leadSent
  /-- A phase goes on. -/
  | wait (hc : s.Counting) (h : s.pcnt ≠ 0) :
      Edge s { s.advance with pcnt := s.pcnt - 1, respValid := false }
  | lowEnd (hst : s.st = .low) (h : s.pcnt = 0) :
      Edge s { s.advance with
        lcdData := s.fsr.getLsbD 16, pcnt := s.params.setup - 1, st := .setup, respValid := false }
  | setupEnd (hst : s.st = .setup) (h : s.pcnt = 0) :
      Edge s { s.advance with
        lcdWr := true, pcnt := s.params.settle - 1, st := .high, respValid := false }
  | nextBit (hst : s.st = .high) (h : s.pcnt = 0) (hb : 1 < s.bcnt.toNat) :
      Edge s { s.advance with
        fsr := s.fsr <<< 1, bcnt := s.bcnt - 1, lcdWr := false
        pcnt := s.params.settle - 1, st := .low, respValid := false }
  | lastBit (hst : s.st = .high) (h : s.pcnt = 0) (hb : ¬ 1 < s.bcnt.toNat) :
      Edge s { s.advance with
        fsr := s.fsr <<< 1, bcnt := s.bcnt - 1, lcdCsN := true, st := .idle, respValid := true }

theorem State.accepts_of_st_ne_idle {s : State} (hst : s.st ≠ .idle) : s.accepts = none := by
  simp [State.accepts, hst]

theorem edge_of_accepts {s t : State} {w : RequestWord} (hs : s.synchronous = true)
    (ha : s.accepts = some w) (h : step s = .next t) : Edge s t := by
  have hst : s.st = .idle := ((s.accepts_eq_some_iff hs w).mp ha).2.1
  rw [step_of_accepts hs ha] at h
  obtain hf | ⟨f, hf⟩ := transact_frames_cases w
  · cases (exec_decodeRequest_of_no_frame hf _).symm.trans h
    exact .answer hst ha hf
  · cases (exec_decodeRequest_of_frame hf _).symm.trans h
    exact .opening hst ha hf

theorem edge_of_idle {s t : State} (hs : s.Running) (hst : s.st = .idle) (h : step s = .next t) :
    Edge s t := by
  cases hq : s.sampled.reqValid with
  | true =>
    have ha : s.accepts = some s.sampled.reqWord :=
      (s.accepts_eq_some_iff hs.1 _).mpr ⟨hs.2, hst, hq, rfl⟩
    exact edge_of_accepts hs.1 ha h
  | false =>
    have ha : s.accepts = none := by simp [State.accepts_of_synchronous hs.1, hq]
    obtain ⟨hr, hi⟩ := s.synchronous_iff.mp hs.1
    cases ((clockEdge_of_idle hr hs.2 hst).trans
      (idleEdge_of_no_request _ (hi hs.2 hst).1 hq)).symm.trans h
    exact .quiet hst ha

theorem edge_of_frame {s t : State} (hp : s.sampled.noReset = true) (hst : s.st ≠ .idle)
    (h : step s = .next t) : Edge s t := by
  cases hs : s.st with
  | idle => exact absurd hs hst
  | lead =>
    cases (step_of_lead hp hs).symm.trans h
    exact .lead hs
  | low =>
    by_cases hz : s.pcnt = 0
    · cases (step_of_low_end hp hs hz).symm.trans h
      exact .lowEnd hs hz
    · cases (step_of_pcnt_ne_zero hp (.inl hs) hz).symm.trans h
      exact .wait (.inl hs) hz
  | setup =>
    by_cases hz : s.pcnt = 0
    · cases (step_of_setup_end hp hs hz).symm.trans h
      exact .setupEnd hs hz
    · cases (step_of_pcnt_ne_zero hp (.inr (.inl hs)) hz).symm.trans h
      exact .wait (.inr (.inl hs)) hz
  | high =>
    by_cases hz : s.pcnt = 0
    · have harm : step s = .next s.advance.stepHigh := by
        rw [step_of_frame hp hst]
        simp [State.frameStep, hs]
      rw [harm] at h
      by_cases hb : 1 < s.bcnt.toNat
      · rw [State.stepHigh_nextBit (s := s.advance) hz hb] at h
        cases h
        exact .nextBit hs hz hb
      · rw [State.stepHigh_lastBit (s := s.advance) hz hb] at h
        cases h
        exact .lastBit hs hz hb
    · cases (step_of_pcnt_ne_zero hp (.inr (.inr hs)) hz).symm.trans h
      exact .wait (.inr (.inr hs)) hz

/-- An edge without reset does one of these. -/
theorem edge_of_running {s t : State} (hs : s.Running) (h : step s = .next t) : Edge s t := by
  by_cases hst : s.st = .idle
  · exact edge_of_idle hs hst h
  · exact edge_of_frame hs.noReset hst h

theorem State.Counting.st_ne_idle {s : State} (hc : s.Counting) : s.st ≠ .idle := by
  obtain h | h | h := hc <;> simp [h]

/-- Settles O50: only the edge that ends LOW writes DATA. -/
theorem dataMovesOnlyWhenLowEnds : Obligations.DataMovesOnlyWhenLowEnds := by
  intro s t hs h hne
  cases edge_of_running hs h with
  | lowEnd hst hz => exact ⟨hst, hz, rfl, rfl⟩
  | quiet | answer | opening | lead | wait | setupEnd | nextBit | lastBit => exact absurd rfl hne

end Sys2Proof.Machine
end

section
/-! The invariant (10_state.md R29 with what makes it inductive): it holds after reset, every synchronous
edge keeps it, and what follows of it for the pins, the pulse and the accepting edge. -/

namespace Sys2Proof.Machine

/-! ### The invariant, in IDLE and in a frame -/

/-- What the phase a frame is in says of WR and `pcnt` (10_state.md R29 (c) to (f)). -/
def State.PhaseOk (s : State) : Prop :=
  match s.st with
  | .idle => True
  | .lead => s.lcdWr = true ∧ s.pcnt = 0
  | .low => s.lcdWr = false ∧ s.pcnt ≤ s.params.settle - 1
  | .setup => s.lcdWr = false ∧ s.pcnt ≤ s.params.setup - 1
  | .high => s.lcdWr = true ∧ s.pcnt ≤ s.params.settle - 1

theorem State.Legal.phaseOk {s : State} (h : s.Legal) : s.PhaseOk := by
  unfold State.PhaseOk
  cases hst : s.st with
  | idle => trivial
  | lead => exact h.lead_shape hst
  | low => exact ⟨h.wr_low (.inl hst), h.settle_bound (.inl hst)⟩
  | setup => exact ⟨h.wr_low (.inr hst), h.setup_bound hst⟩
  | high => exact ⟨h.wr_high hst, h.settle_bound (.inr hst)⟩

/-- A legal state is one with the right shape in IDLE, in a frame, and in the frame's phase. -/
theorem State.legal_of_phaseOk {s : State}
    (hidle : s.st = .idle → s.fsr = 0 ∧ s.bcnt = 0 ∧ s.pcnt = 0 ∧ s.lcdCsN = true ∧ s.lcdWr = true)
    (hbusy : s.st ≠ .idle → s.lcdCsN = false ∧ 1 ≤ s.bcnt.toNat ∧ s.bcnt.toNat ≤ 17)
    (hphase : s.PhaseOk) : s.Legal := by
  unfold State.PhaseOk at hphase
  constructor
  case idle_shape => exact hidle
  case busy_shape => exact hbusy
  case lead_shape => exact fun hst => by simpa only [hst] using hphase
  case wr_low =>
    rintro (hst | hst)
    all_goals
      simp only [hst] at hphase
      exact hphase.1
  case wr_high =>
    intro hst
    simp only [hst] at hphase
    exact hphase.1
  case settle_bound =>
    rintro (hst | hst)
    all_goals
      simp only [hst] at hphase
      exact hphase.2
  case setup_bound =>
    intro hst
    simp only [hst] at hphase
    exact hphase.2

theorem State.inv_of_idle {s : State} (hok : s.params.Ok) (hst : s.st = .idle) (hfsr : s.fsr = 0)
    (hbcnt : s.bcnt = 0) (hpcnt : s.pcnt = 0) (hcs : s.lcdCsN = true) (hwr : s.lcdWr = true) :
    s.Inv where
  params_ok := hok
  legal := State.legal_of_phaseOk (fun _ => ⟨hfsr, hbcnt, hpcnt, hcs, hwr⟩) (absurd hst)
    (by simp [State.PhaseOk, hst])
  fsr_drains := by simp [hfsr]
  pulse_idle _ := hst

theorem State.inv_of_busy {s : State} (hok : s.params.Ok) (hb : s.Busy)
    (hbcnt : 1 ≤ s.bcnt.toNat ∧ s.bcnt.toNat ≤ 17) (hdrains : s.fsr <<< s.bcnt.toNat = 0)
    (hphase : s.PhaseOk) : s.Inv where
  params_ok := hok
  legal := State.legal_of_phaseOk (fun h => absurd h hb.st_ne_idle)
    (fun _ => ⟨hb.lcdCsN_low, hbcnt⟩) hphase
  fsr_drains := hdrains
  pulse_idle h := by simp [hb.respValid_low] at h

theorem State.Inv.busy {s : State} (h : s.Inv) (hst : s.st ≠ .idle) : s.Busy where
  st_ne_idle := hst
  lcdCsN_low := (h.legal.busy_shape hst).1
  respValid_low := by
    by_contra hv
    exact hst (h.pulse_idle (by simpa using hv))

/-- Chip-select is high in IDLE only. -/
theorem State.Inv.lcdCsN_iff {s : State} (h : s.Inv) : s.lcdCsN = true ↔ s.st = .idle := by
  refine ⟨fun hcs => ?_, fun hst => (h.legal.idle_shape hst).2.2.2.1⟩
  by_contra hst
  simp [(h.busy hst).lcdCsN_low] at hcs

theorem State.Inv.lcdCsN_eq_false_iff {s : State} (h : s.Inv) :
    s.lcdCsN = false ↔ s.st ≠ .idle := by
  rw [ne_eq, ← h.lcdCsN_iff, Bool.not_eq_true]

/-! ### Reset establishes it -/

theorem State.resetValues_inv {s : State} (hok : s.params.Ok) : s.resetValues.Inv :=
  State.inv_of_idle hok rfl rfl rfl rfl rfl rfl

/-- Settles O44: of the reset parameters only that S and U are at least 1. -/
theorem resetStateMeetsTheInvariant : Obligations.ResetStateMeetsTheInvariant :=
  ⟨State.inv_of_idle (by decide) rfl rfl rfl rfl rfl rfl, Nat.two_pow_pos _⟩

/-- Settles O45. -/
theorem resetEdgeEstablishesTheInvariant : Obligations.ResetEdgeEstablishesTheInvariant := by
  intro s t hok hr hrst h
  cases (clockEdge_of_reset hr hrst).symm.trans h
  exact State.resetValues_inv hok

/-! ### Every synchronous edge keeps it -/

theorem State.opened_bcnt (s : State) (resp : Response) (f : Frame) :
    (s.opened resp f).bcnt.toNat = f.len :=
  Nat.mod_eq_of_lt (f.len_le.trans_lt (by decide))

/-- The frame stands in the transmitter, and the rest of `fsr` is 0 (40_bit_transmitter.md R66). -/
theorem State.opened_inv {s : State} (hok : s.params.Ok) (hwr : s.lcdWr = true) (resp : Response)
    (f : Frame) : (s.opened resp f).Inv := by
  refine State.inv_of_busy hok ⟨nofun, rfl, rfl⟩ ?_ ?_ ⟨hwr, rfl⟩
  · rw [s.opened_bcnt]
    exact ⟨f.len_pos, f.len_le⟩
  · rw [s.opened_bcnt]
    exact s.load_fsr_shiftLeft f.word f.len_le

theorem toNat_sub_one {b : BitVec 5} (h : 1 ≤ b.toNat) : (b - 1).toNat = b.toNat - 1 :=
  BitVec.toNat_sub_of_le h

/-- An edge of a frame that leaves the transmitter's bits alone keeps them in order. -/
theorem State.Inv.of_same_bits {s t : State} (hs : s.Inv) (hst : s.st ≠ .idle)
    (hparams : t.params = s.params) (hfsr : t.fsr = s.fsr) (hbcnt : t.bcnt = s.bcnt)
    (hb : t.Busy) (hphase : t.PhaseOk) : t.Inv :=
  State.inv_of_busy (hparams ▸ hs.params_ok) hb (hbcnt ▸ (hs.legal.busy_shape hst).2)
    (by rw [hfsr, hbcnt, hs.fsr_drains]) hphase

theorem State.Inv.edge {s t : State} (hs : s.Inv) (h : Edge s t) : t.Inv := by
  have hok := hs.params_ok
  cases h with
  | quiet hst ha | answer hst ha hf =>
    obtain ⟨hfsr, hbcnt, hpcnt, hcs, hwr⟩ := hs.legal.idle_shape hst
    exact State.inv_of_idle hok hst hfsr hbcnt hpcnt hcs hwr
  | opening hst ha hf =>
    obtain ⟨-, -, -, -, hwr⟩ := hs.legal.idle_shape hst
    exact State.opened_inv (s := s.advance) hok hwr _ _
  | lead hst =>
    have hb := hs.busy (by simp [hst])
    exact hs.of_same_bits hb.st_ne_idle rfl rfl rfl ⟨nofun, hb.lcdCsN_low, rfl⟩ ⟨rfl, le_rfl⟩
  | wait hc hz =>
    have hb := hs.busy hc.st_ne_idle
    refine hs.of_same_bits hb.st_ne_idle rfl rfl rfl ⟨hb.st_ne_idle, hb.lcdCsN_low, rfl⟩ ?_
    have hphase := hs.legal.phaseOk
    unfold State.PhaseOk at hphase ⊢
    obtain hst | hst | hst := hc
    all_goals
      simp only [hst, State.advance_st] at hphase ⊢
      exact ⟨hphase.1, (Nat.sub_le _ _).trans hphase.2⟩
  | lowEnd hst hz =>
    have hb := hs.busy (by simp [hst])
    exact hs.of_same_bits hb.st_ne_idle rfl rfl rfl ⟨nofun, hb.lcdCsN_low, rfl⟩
      ⟨hs.legal.wr_low (.inl hst), le_rfl⟩
  | setupEnd hst hz =>
    have hb := hs.busy (by simp [hst])
    exact hs.of_same_bits hb.st_ne_idle rfl rfl rfl ⟨nofun, hb.lcdCsN_low, rfl⟩ ⟨rfl, le_rfl⟩
  | nextBit hst hz hmore =>
    have hb := hs.busy (by simp [hst])
    obtain ⟨-, hge, hle⟩ := hs.legal.busy_shape hb.st_ne_idle
    have hcount : (s.bcnt - 1).toNat = s.bcnt.toNat - 1 := toNat_sub_one hge
    refine State.inv_of_busy hok ⟨nofun, hb.lcdCsN_low, rfl⟩ ?_ ?_ ⟨rfl, le_rfl⟩
    · change 1 ≤ (s.bcnt - 1).toNat ∧ (s.bcnt - 1).toNat ≤ 17
      omega
    · change s.fsr <<< 1 <<< (s.bcnt - 1).toNat = 0
      rw [hcount, ← BitVec.shiftLeft_add, Nat.add_sub_cancel' hge, hs.fsr_drains]
  | lastBit hst hz hlast =>
    obtain ⟨-, hge, -⟩ := hs.legal.busy_shape (by simp [hst])
    have hone : s.bcnt.toNat = 1 := by omega
    have hdrains : s.fsr <<< 1 = 0 := by simpa only [hone] using hs.fsr_drains
    have hnone : s.bcnt - 1 = 0 := BitVec.eq_of_toNat_eq (by rw [toNat_sub_one hge, hone]; rfl)
    exact State.inv_of_idle hok rfl hdrains hnone hz rfl (hs.legal.wr_high hst)

theorem State.Inv.step {s t : State} (hs : s.Inv) (hsync : s.synchronous = true)
    (h : step s = .next t) : t.Inv := by
  cases hrst : s.sampled.rstN with
  | false =>
    cases (clockEdge_of_reset (s.synchronous_iff.mp hsync).1 hrst).symm.trans h
    exact State.resetValues_inv hs.params_ok
  | true => exact hs.edge (edge_of_running ⟨hsync, hrst⟩ h)

/-- Settles O46: a reset edge establishes the invariant, every other edge keeps it. -/
theorem everyEdgeKeepsTheInvariant : Obligations.EveryEdgeKeepsTheInvariant :=
  fun _ _ => State.Inv.step

/-! ### The pins and the pulse -/

/-- Settles O49: the edges that write WR lead from a state of the frame to another. -/
theorem wrMovesOnlyWhileSelected : Obligations.WrMovesOnlyWhileSelected := by
  intro s t hs hrun h
  have hedge := edge_of_running hrun h
  have ht := hs.edge hedge
  refine ⟨fun hne => ?_, fun hcs => (ht.legal.idle_shape (ht.lcdCsN_iff.mp hcs)).2.2.2.2⟩
  rw [hs.lcdCsN_eq_false_iff, ht.lcdCsN_eq_false_iff]
  cases hedge with
  | quiet | answer | opening | wait | lowEnd | lastBit => exact absurd rfl hne
  | lead hst | setupEnd hst | nextBit hst => exact ⟨by simp [hst], nofun⟩

/-- From IDLE an edge begins a frame exactly when it accepts a request that has one. -/
theorem Edge.st_ne_idle_iff {s t : State} (h : Edge s t) (hidle : s.st = .idle) :
    t.st ≠ .idle ↔ ∃ w, s.accepts = some w ∧ (transact w).1 ≠ [] := by
  cases h with
  | quiet _ ha => simp [ha, hidle]
  | answer _ ha hf => simp [ha, hf, hidle, State.answered]
  | opening _ ha hf => simp [ha, hf, State.opened]
  | lead hst | lowEnd hst | setupEnd hst | nextBit hst | lastBit hst => simp [hst] at hidle
  | wait hc => exact absurd hidle hc.st_ne_idle

/-- In a frame an edge ends it exactly when it gives the pulse. -/
theorem Edge.st_eq_idle_iff {s t : State} (h : Edge s t) (hbusy : s.st ≠ .idle) :
    t.st = .idle ↔ t.respValid = true := by
  cases h with
  | quiet hst | answer hst | opening hst => exact absurd hst hbusy
  | wait => simp [hbusy]
  | lead | lowEnd | setupEnd | nextBit | lastBit => simp [State.leadSent]

/-- Settles O51: chip-select is high in IDLE only, so it moves where a frame begins or ends. -/
theorem chipSelectBracketsTheFrame : Obligations.ChipSelectBracketsTheFrame := by
  intro s t hs hrun h
  have hedge := edge_of_running hrun h
  have ht := hs.edge hedge
  rw [hs.lcdCsN_iff, ht.lcdCsN_iff, hs.lcdCsN_eq_false_iff, ht.lcdCsN_eq_false_iff]
  refine ⟨⟨fun ⟨hidle, hne⟩ => (hedge.st_ne_idle_iff hidle).mp hne, fun hw => ?_⟩,
    and_congr_right hedge.st_eq_idle_iff⟩
  have ⟨w, ha, _⟩ := hw
  have hidle : s.st = .idle := ((s.accepts_eq_some_iff hrun.1 w).mp ha).2.1
  exact ⟨hidle, (hedge.st_ne_idle_iff hidle).mpr hw⟩

/-- Settles O35: of the edges, `answer` and `lastBit` give the pulse. -/
theorem pulseExactlyAtCompletion : Obligations.PulseExactlyAtCompletion := by
  intro s t hs hrun h
  have hnone (hst : s.st ≠ .idle) : s.accepts = none := State.accepts_of_st_ne_idle hst
  cases edge_of_running hrun h with
  | quiet hst ha => simp [hst, ha]
  | answer hst ha hf => simp [ha, hf, State.answered]
  | opening hst ha hf => simp [hst, ha, hf, State.opened]
  | lead hst | lowEnd hst | setupEnd hst => simp [hst, hnone, State.leadSent]
  | wait hc hz => simp [hz, hnone hc.st_ne_idle]
  | nextBit hst hz hmore =>
    have hne : s.bcnt ≠ 1 := fun h => absurd hmore (by simp [h])
    simpa [hst, hz, hnone] using hne
  | lastBit hst hz hlast =>
    obtain ⟨-, hge, -⟩ := hs.legal.busy_shape (by simp [hst])
    have hone : s.bcnt = 1 := BitVec.eq_of_toNat_eq (le_antisymm (not_lt.mp hlast) hge)
    simp [hst, hz, hone]

/-! ### The accepting edge -/

/-- An opened frame stands in the transmitter above zeros (40_bit_transmitter.md R66). -/
theorem State.bitsMsb_opened_fsr (s : State) (resp : Response) (f : Frame) :
    bitsMsb (s.opened resp f).fsr = f.bits ++ List.replicate (17 - f.len) false := by
  have hlen := f.len_le
  have hload (k : Nat) : (s.opened resp f).fsr.getMsbD k = f.word.getMsbD k :=
    s.load_fsr_getMsbD f.word hlen k
  rw [← f.bitsMsb_word]
  refine List.ext_getElem (by simp [hlen]) fun k hk _ => ?_
  rw [bitsMsb_getElem, hload]
  obtain hin | hout := Nat.lt_or_ge k f.len
  · rw [List.getElem_append_left (by simpa using hin), bitsMsb_getElem]
  · rw [List.getElem_append_right (by simpa using hout), List.getElem_replicate]
    simp [BitVec.getMsbD, hout.not_gt]

/-- Settles O52: an accepting edge answers or opens the frame. -/
theorem acceptingEdgeMatchesTheTransaction : Obligations.AcceptingEdgeMatchesTheTransaction := by
  intro s w hs hsync ha
  have hst : s.st = .idle := ((s.accepts_eq_some_iff hsync w).mp ha).2.1
  rw [step_of_accepts hsync ha]
  obtain hf | ⟨f, hf⟩ := transact_frames_cases w
  · exact ⟨_, exec_decodeRequest_of_no_frame hf _, rfl, .inl ⟨hf, rfl, hst, rfl, rfl, rfl⟩⟩
  · exact ⟨_, exec_decodeRequest_of_frame hf _, rfl, .inr ⟨f, hf, rfl, rfl, rfl,
      State.opened_bcnt _ _ f, State.bitsMsb_opened_fsr _ _ f⟩⟩

end Sys2Proof.Machine
end

section
/-! The reset edge and what follows it (70_reset_and_hazards.md R111 to R114, R121), edges that read a
port changing too close to them (R116, 93_implementation_defined.md I14), and the width of `pcnt`, which
even those keep (10_state.md R17). -/

namespace Sys2Proof.Machine

/-! ### Reset -/

/-- Settles O37. -/
theorem resetStateHoldsTheResetValues : Obligations.ResetStateHoldsTheResetValues :=
  ⟨rfl, rfl, rfl, rfl, rfl, rfl, rfl, rfl, rfl, rfl⟩

/-- The reset values leave nothing of the machine but what is not the SPE's. -/
theorem State.resetValues_eq (s : State) :
    s.resetValues =
      { State.reset with params := s.params, inputs := s.inputs, draws := s.draws } := rfl

/-- Settles O39: after reset the machine is in IDLE, and only `rst_n` can keep it from accepting. -/
theorem firstEdgeAfterResetCanAccept : Obligations.FirstEdgeAfterResetCanAccept := by
  intro s t hr hrst h
  cases (clockEdge_of_reset hr hrst).symm.trans h
  exact ⟨Bool.and_true _, fun w => State.accepts_of_offer rfl⟩

/-- Settles O42: `resetValues_eq`, which power-up's free values do not enter. -/
theorem resetForgetsWhatWasBefore : Obligations.ResetForgetsWhatWasBefore := by
  refine ⟨fun s s' hparams hinputs hdraws hr hrst => ?_, fun p rest => clockEdge_of_reset rfl rfl⟩
  have hport : s'.sampled = s.sampled := congrArg (·.headD .quiet) hinputs.symm
  rw [step_eq_clockEdge, step_eq_clockEdge, clockEdge_of_reset hr hrst,
    clockEdge_of_reset (hport ▸ hr) (hport ▸ hrst), State.resetValues_eq, State.resetValues_eq]
  simp only [State.advance, hparams, hinputs, hdraws]

/-- Nothing can be accepted in this tick: reset, or no request. -/
def PortInput.OffersNothing (p : PortInput) : Prop :=
  p.rstNStable = true ∧ (p.rstN = false ∨ (p.reqValidStable = true ∧ p.reqValid = false))

/-- The machine is idle and has not just completed a request. -/
def State.Silent (s : State) : Prop := s.respValid = false ∧ s.st = .idle ∧ s.lcdCsN = true

theorem State.Silent.step {s : State} (hs : s.Silent) (hp : s.sampled.OffersNothing) :
    ∃ t, step s = .next t ∧ t.Silent ∧ t.inputs = s.inputs.tail := by
  obtain ⟨-, hst, hcs⟩ := hs
  obtain ⟨hr, hport⟩ := hp
  cases hrst : s.sampled.rstN with
  | false => exact ⟨_, clockEdge_of_reset hr hrst, ⟨rfl, rfl, rfl⟩, rfl⟩
  | true =>
    obtain ⟨hv, hq⟩ := hport.resolve_left (by simp [hrst])
    exact ⟨_, (clockEdge_of_idle hr hrst hst).trans (idleEdge_of_no_request _ hv hq),
      ⟨rfl, hst, hcs⟩, rfl⟩

/-- A silent machine stays so while nothing is offered. -/
theorem State.Silent.run {s : State} {n : Nat} (hs : s.Silent)
    (hp : ∀ k, k < n → (s.inputs.getD k .quiet).OffersNothing) :
    ∃ u, run n s = .next u ∧ u.Silent := by
  induction n generalizing s with
  | zero => exact ⟨s, rfl, hs⟩
  | succ n ih =>
    have hhead : s.sampled = s.inputs.getD 0 .quiet := by cases h : s.inputs <;> simp [sampled, h]
    obtain ⟨t, hstep, ht, hinputs⟩ := hs.step (hhead ▸ hp 0 n.succ_pos)
    rw [run_succ hstep]
    refine ih ht fun k hk => ?_
    simpa [hinputs, List.getD_eq_getElem?_getD] using hp (k + 1) (by omega)

/-- Settles O40: the state after a reset edge is silent. -/
theorem abortedFrameNeverAnswers : Obligations.AbortedFrameNeverAnswers := by
  intro s t n hr hrst h hp
  cases (clockEdge_of_reset hr hrst).symm.trans h
  exact State.Silent.run ⟨rfl, rfl, rfl⟩ hp

/-- WR is low in LOW and SETUP only. -/
theorem State.Inv.lcdWr_eq_false_iff {s : State} (h : s.Inv) :
    s.lcdWr = false ↔ s.st = .low ∨ s.st = .setup := by
  have hphase := h.legal.phaseOk
  unfold State.PhaseOk at hphase
  cases hst : s.st with
  | idle => simp [(h.legal.idle_shape hst).2.2.2.2]
  | lead | low | setup | high =>
    simp only [hst] at hphase
    simp [hphase.1]

/-- Settles O41: WR rises where it was low, and chip-select was low there too. -/
theorem resetRaisesWrOnlyInLowOrSetup : Obligations.ResetRaisesWrOnlyInLowOrSetup := by
  intro s t hs hr hrst h
  cases (clockEdge_of_reset hr hrst).symm.trans h
  refine ⟨rfl, rfl, rfl, (and_iff_left rfl).trans hs.lcdWr_eq_false_iff, ?_⟩
  simp only [← hs.lcdWr_eq_false_iff]
  cases hwr : s.lcdWr with
  | true => simp [Recorder.observe, Recorder.startAt, hwr]
  | false =>
    have hcs : s.lcdCsN = false := hs.lcdCsN_eq_false_iff.mpr (by
      obtain hst | hst := hs.lcdWr_eq_false_iff.mp hwr <;> simp [hst])
    simp [Recorder.observe, Recorder.startAt, hwr, hcs]

/-! ### Ports that are not synchronous -/

/-- The word of a request is not known, so it may be one with a frame. -/
theorem idleEdge_of_unknown_request {p : PortInput} (s : State)
    (h : p.reqValidStable = false ∧
        (p.reqWordStable = false ∨ (transact p.reqWord).1 ≠ []) ∨
      p.reqValidStable = true ∧ p.reqValid = true ∧ p.reqWordStable = false) :
    idleEdge p s = .next s.freeRequest := by
  rw [← opensFrame_decodeRequest] at h
  obtain ⟨hv, hw | ho⟩ | ⟨hv, hq, hw⟩ := h
  · simp [idleEdge, hv, hw]
  · simp [idleEdge, hv, ho]
  · simp [idleEdge, hv, hq, hw]

/-- A request without a frame may or may not be accepted. -/
theorem idleEdge_of_unknown_valid {p : PortInput} (s : State) (hv : p.reqValidStable = false)
    (hw : p.reqWordStable = true) (hf : (transact p.reqWord).1 = []) :
    idleEdge p s = .next s.freeResponse := by
  have ho : opensFrame (decodeRequest p.reqWord) = false := by
    rw [← Bool.not_eq_true, opensFrame_decodeRequest, not_not, hf]
  simp [idleEdge, hv, hw, ho]

/-- Settles O43. -/
theorem unstableInputsFreeWhatTheEdgeMayWrite :
    Obligations.UnstableInputsFreeWhatTheEdgeMayWrite := by
  refine ⟨fun s => clockEdge_of_rstN_unstable, fun s hp hst => ?_⟩
  obtain ⟨hr, hrst⟩ : s.sampled.rstNStable = true ∧ s.sampled.rstN = true := by
    simpa [PortInput.noReset] using hp
  have hidle := clockEdge_of_idle hr hrst hst
  refine ⟨fun h => hidle.trans (idleEdge_of_unknown_request _ h),
    fun ⟨hv, hw, hf⟩ => hidle.trans (idleEdge_of_unknown_valid _ hv hw hf), fun ⟨hv, hw⟩ => ?_⟩
  simp [State.accepts, PortInput.settled, hr, hrst, hst, hv, hw]

/-! ### The width of `pcnt` -/

theorem le_two_pow_ceilLog2 (n : Nat) : n ≤ 2 ^ ceilLog2 n := by
  unfold ceilLog2
  split_ifs with h
  · exact h
  · have := Nat.lt_log2_self (n := n - 1)
    omega

/-- `W_P` bits hold every value below S and below U (00_scope.md R6). -/
theorem max_le_two_pow_pcntWidth (p : Params) : max p.settle p.setup ≤ 2 ^ p.pcntWidth :=
  (le_two_pow_ceilLog2 _).trans (Nat.pow_le_pow_right two_pos (le_max_right _ _))

theorem settle_sub_one_fits (p : Params) : p.settle - 1 < 2 ^ p.pcntWidth := by
  have := (le_max_left _ _).trans (max_le_two_pow_pcntWidth p)
  have := Nat.two_pow_pos p.pcntWidth
  omega

theorem setup_sub_one_fits (p : Params) : p.setup - 1 < 2 ^ p.pcntWidth := by
  have := (le_max_right _ _).trans (max_le_two_pow_pcntWidth p)
  have := Nat.two_pow_pos p.pcntWidth
  omega

/-- `t` has the parameters and the inputs of `s`, and a `pcnt` that fits if the one of `s` does. -/
structure State.Keeps (s t : State) : Prop where
  pcntFits : s.PcntFits → t.PcntFits
  params_eq : t.params = s.params
  inputs_eq : t.inputs = s.inputs

theorem State.keeps_of_le {s t : State} (h : t.pcnt ≤ s.pcnt) (hparams : t.params = s.params)
    (hinputs : t.inputs = s.inputs) : s.Keeps t where
  pcntFits hs := by
    rw [State.PcntFits, hparams]
    exact h.trans_lt hs
  params_eq := hparams
  inputs_eq := hinputs

theorem exec_pcnt_le {i : Instr} {s t : State} (h : exec i s = .next t) : t.pcnt ≤ s.pcnt := by
  cases hi : i.isRequest with
  | true =>
    obtain ⟨-, resp, hexec⟩ | ⟨-, resp, f, hexec⟩ := exec_request hi
    · cases (hexec s).symm.trans h
      exact le_rfl
    · cases (hexec s).symm.trans h
      exact Nat.zero_le _
  | false =>
    cases i with
    | cmd code | write addr data | digit pos colon d | lookup colon d => cases hi
    | frameCmd code | frameWrite addr data =>
      cases h
      exact Nat.zero_le _

theorem idleEdge_keeps {p : PortInput} {s t : State} (h : idleEdge p s = .next t) : s.Keeps t := by
  obtain ⟨-, -, rfl⟩ | ⟨-, -, -, hexec⟩ | ⟨-, -, -, rfl⟩ | ⟨-, -, rfl⟩ := idleEdge_cases h
  · exact State.keeps_of_le le_rfl rfl rfl
  · obtain ⟨-, -, hparams, hinputs, -⟩ := exec_keeps hexec
    exact State.keeps_of_le (exec_pcnt_le hexec) hparams hinputs
  · exact State.keeps_of_le le_rfl rfl rfl
  · exact ⟨fun _ => Nat.mod_lt _ (Nat.two_pow_pos _), rfl, rfl⟩

theorem State.frameStep_keeps (s : State) : s.Keeps s.frameStep := by
  have hsettle := settle_sub_one_fits s.params
  have hwait : s.Keeps { s with pcnt := s.pcnt - 1, respValid := false } :=
    State.keeps_of_le (Nat.sub_le _ _) rfl rfl
  unfold State.frameStep
  cases s.st with
  | idle => exact State.keeps_of_le le_rfl rfl rfl
  | lead => exact ⟨fun _ => hsettle, rfl, rfl⟩
  | low =>
    by_cases hz : s.pcnt = 0
    · rw [State.stepLow_last hz]
      exact ⟨fun _ => setup_sub_one_fits s.params, rfl, rfl⟩
    · rw [State.stepLow_wait hz]
      exact hwait
  | setup =>
    by_cases hz : s.pcnt = 0
    · rw [State.stepSetup_last hz]
      exact ⟨fun _ => hsettle, rfl, rfl⟩
    · rw [State.stepSetup_wait hz]
      exact hwait
  | high =>
    by_cases hz : s.pcnt = 0
    · by_cases hb : 1 < s.bcnt.toNat
      · rw [State.stepHigh_nextBit hz hb]
        exact ⟨fun _ => hsettle, rfl, rfl⟩
      · rw [State.stepHigh_lastBit hz hb]
        exact State.keeps_of_le le_rfl rfl rfl
    · rw [State.stepHigh_wait hz]
      exact hwait

/-- What every edge keeps of the state whose current tick is over. -/
theorem step_keeps {s t : State} (h : step s = .next t) : s.advance.Keeps t := by
  rw [step_eq_clockEdge] at h
  cases hr : s.sampled.rstNStable with
  | false =>
    cases (clockEdge_of_rstN_unstable hr).symm.trans h
    exact ⟨fun _ => Nat.mod_lt _ (Nat.two_pow_pos _), rfl, rfl⟩
  | true =>
    cases hrst : s.sampled.rstN with
    | false =>
      cases (clockEdge_of_reset hr hrst).symm.trans h
      exact State.keeps_of_le (Nat.zero_le _) rfl rfl
    | true =>
      by_cases hst : s.st = .idle
      · exact idleEdge_keeps ((clockEdge_of_idle hr hrst hst).symm.trans h)
      · cases (clockEdge_of_frame hr hrst hst).symm.trans h
        exact s.advance.frameStep_keeps

/-- Settles O47: what an edge writes into `pcnt` is 0, S - 1, U - 1, one less, or a free value of its
width. -/
theorem pcntAlwaysFitsItsWidth : Obligations.PcntAlwaysFitsItsWidth :=
  fun _ _ hs h => ⟨(step_keeps h).pcntFits hs, (step_keeps h).params_eq⟩

end Sys2Proof.Machine
end

section
/-! A frame on the pins, tick by tick (40_bit_transmitter.md R65, R71, R76), and that a frame in progress
ends. -/

namespace Sys2Proof.Machine

/-! ### The bits of a frame by their number -/

theorem getMsbD_eq_getLsbD {L : Nat} (f : BitVec L) {k : Nat} (hk : k < L) :
    f.getMsbD k = f.getLsbD (L - 1 - k) := by
  simp [BitVec.getMsbD, hk]

/-- Settles O33: the bits most significant first are `f[L-1]` down to `f[0]`. -/
theorem transmitSendsTheBitsMsbFirst : Obligations.TransmitSendsTheBitsMsbFirst := by
  intro L f s hL hL' hok _
  have hbits : (List.range L).map (fun k => f.getLsbD (L - 1 - k)) = bitsMsb f :=
    List.map_congr_left fun k hk => (getMsbD_eq_getLsbD f (List.mem_range.mp hk)).symm
  exact hbits ▸ startFrame_sendsFrame f hL hL' hok

theorem State.QuietReset.noReset_sampled {s : State} {n : Nat} (hq : s.QuietReset n) (hn : 0 < n) :
    s.sampled.noReset = true := by
  simpa only [s.waited_zero] using hq.noReset_waited hn

/-! ### A frame in progress ends -/

/-- The edges to the end of the frame in progress (40_bit_transmitter.md R71, R76). -/
def State.ticksLeft (s : State) : Nat :=
  match s.st with
  | .idle => 0
  | .lead => 1 + s.bcnt.toNat * s.params.period
  | .low => s.pcnt + 1 + s.params.setup + s.params.settle + (s.bcnt.toNat - 1) * s.params.period
  | .setup => s.pcnt + 1 + s.params.settle + (s.bcnt.toNat - 1) * s.params.period
  | .high => s.pcnt + 1 + (s.bcnt.toNat - 1) * s.params.period

theorem State.ticksLeft_pos {s : State} (hst : s.st ≠ .idle) : 0 < s.ticksLeft := by
  unfold State.ticksLeft
  cases h : s.st with
  | idle => exact absurd h hst
  | lead | low | setup | high => dsimp only; omega

theorem Edge.inputs {s t : State} (h : Edge s t) : t.inputs = s.inputs.tail := by
  cases h <;> rfl

/-- A whole bit, as what is left at its start. -/
theorem phases_add_bits {p : Params} (hok : p.Ok) {n : Nat} (hn : 1 ≤ n) :
    p.settle - 1 + 1 + p.setup + p.settle + (n - 1) * p.period = n * p.period := by
  obtain ⟨m, rfl⟩ := Nat.exists_eq_add_of_le' hn
  rw [Nat.succ_mul, Nat.add_sub_cancel, period_eq_phases]
  have := hok.1
  omega

/-- Every edge of a frame is one less to its end. -/
theorem Edge.ticksLeft_succ {s t : State} (h : Edge s t) (hs : s.Inv) (hst : s.st ≠ .idle) :
    t.ticksLeft + 1 = s.ticksLeft := by
  obtain ⟨-, hge, -⟩ := hs.legal.busy_shape hst
  obtain ⟨hS, hU⟩ := hs.params_ok
  cases h with
  | quiet hidle | answer hidle | opening hidle => exact absurd hidle hst
  | lead hlead =>
    have hbits := phases_add_bits hs.params_ok hge
    simp only [State.ticksLeft, hlead, State.leadSent, State.advance_bcnt, State.advance_params]
    omega
  | wait hc hz =>
    obtain hphase | hphase | hphase := hc
    all_goals
      simp only [State.ticksLeft, State.advance_st, State.advance_bcnt, State.advance_params,
        hphase]
      omega
  | lowEnd hlow hz =>
    simp only [State.ticksLeft, State.advance_bcnt, State.advance_params, hlow, hz]
    omega
  | setupEnd hsetup hz =>
    simp only [State.ticksLeft, State.advance_bcnt, State.advance_params, hsetup, hz]
    omega
  | nextBit hhigh hz hmore =>
    have hbits := phases_add_bits hs.params_ok (Nat.le_sub_one_of_lt hmore)
    simp only [State.ticksLeft, State.advance_params, hhigh, hz, toNat_sub_one hge]
    omega
  | lastBit hhigh hz hlast =>
    have hone : s.bcnt.toNat - 1 = 0 := by omega
    simp only [State.ticksLeft, hhigh, hz, hone, Nat.zero_mul]

/-- A frame has at most 17 bits left. -/
theorem State.Inv.ticksLeft_le {s : State} (hs : s.Inv) :
    s.ticksLeft ≤ 1 + 17 * s.params.period := by
  obtain ⟨hS, hU⟩ := hs.params_ok
  by_cases hst : s.st = .idle
  · simp [State.ticksLeft, hst]
  · obtain ⟨-, hge, hle⟩ := hs.legal.busy_shape hst
    have hphase := hs.legal.phaseOk
    have hbits := phases_add_bits hs.params_ok hge
    have hmax : s.bcnt.toNat * s.params.period ≤ 17 * s.params.period :=
      Nat.mul_le_mul_right _ hle
    unfold State.PhaseOk at hphase
    unfold State.ticksLeft
    cases hphase_st : s.st with
    | idle => exact absurd hphase_st hst
    | lead => exact Nat.add_le_add_left hmax 1
    | low | setup | high =>
      simp only [hphase_st] at hphase
      dsimp only
      omega

/-- A frame in progress ends when its ticks are over. -/
theorem run_to_end_of_frame {s : State} {n : Nat} (hn : s.ticksLeft = n) (hs : s.Inv)
    (hst : s.st ≠ .idle) (hq : s.QuietReset n) :
    ∃ u, run n s = .next u ∧ u.st = .idle ∧ u.lcdCsN = true ∧ u.respValid = true := by
  induction n generalizing s with
  | zero => exact absurd hn (State.ticksLeft_pos hst).ne'
  | succ n ih =>
    obtain ⟨t, ht⟩ := step_answers_next s
    have hedge := edge_of_frame (hq.noReset_sampled n.succ_pos) hst ht
    have hinv := hs.edge hedge
    have hleft : t.ticksLeft = n := Nat.succ.inj ((hedge.ticksLeft_succ hs hst).trans hn)
    rw [run_succ ht]
    by_cases hend : t.st = .idle
    · obtain rfl : n = 0 := by simpa [State.ticksLeft, hend] using hleft.symm
      exact ⟨t, rfl, hend, hinv.lcdCsN_iff.mpr hend, (hedge.st_eq_idle_iff hst).mp hend⟩
    · rw [Nat.add_comm] at hq
      exact ih hleft hinv hend (hq.drop (by rw [hedge.inputs, List.drop_one]))

/-- Settles O34: every edge of a frame brings its end one tick nearer. -/
theorem frameInProgressAlwaysEnds : Obligations.FrameInProgressAlwaysEnds := by
  intro s hs hst hq
  obtain ⟨u, hrun, hu⟩ := run_to_end_of_frame rfl hs hst (hq.mono hs.ticksLeft_le)
  exact ⟨_, u, hs.ticksLeft_le, hrun, hu⟩

/-! ### The tick schedule -/

/-- `u` begins bit `k` of the frame whose first bit begins at `s`. -/
structure State.AtBit (s u : State) (k : Nat) : Prop where
  start : u.BitStart
  fsr_eq : u.fsr = s.fsr <<< k
  bcnt_eq : u.bcnt.toNat = s.bcnt.toNat - k
  lcdData_eq : u.lcdData = if k = 0 then s.lcdData else s.fsr.getMsbD (k - 1)
  params_eq : u.params = s.params
  inputs_eq : u.inputs = s.inputs.drop (k * s.params.period)

theorem State.AtBit.getMsbD_zero {s u : State} {k : Nat} (h : s.AtBit u k) :
    u.fsr.getMsbD 0 = s.fsr.getMsbD k := by
  rw [h.fsr_eq, BitVec.getMsbD_shiftLeft, Nat.zero_add]

theorem State.AtBit.next {s u : State} {k : Nat} (h : s.AtBit u k) :
    s.AtBit u.bitSent (k + 1) where
  start := h.start.bitSent
  fsr_eq := by rw [BitVec.shiftLeft_add, ← h.fsr_eq]; rfl
  bcnt_eq := by rw [u.bitSent_bcnt, h.bcnt_eq, Nat.sub_sub]
  lcdData_eq := h.getMsbD_zero
  params_eq := h.params_eq
  inputs_eq := by
    rw [u.bitSent_inputs, h.inputs_eq, h.params_eq, List.drop_drop, Nat.succ_mul]

/-- Bit `k` begins `k` bit periods after the first. -/
theorem run_to_bit {s : State} {k : Nat} (hs : s.BitStart) (hk : k < s.bcnt.toNat)
    (hq : s.QuietReset (k * s.params.period)) :
    ∃ u, run (k * s.params.period) s = .next u ∧ s.AtBit u k := by
  induction k with
  | zero => exact ⟨s, by rw [Nat.zero_mul, run_zero], hs, by simp, rfl, rfl, rfl, by simp⟩
  | succ k ih =>
    rw [Nat.succ_mul] at hq ⊢
    obtain ⟨u, hrun, hu⟩ := ih (by omega) (hq.mono (Nat.le_add_right _ _))
    have hmore : 1 < u.bcnt.toNat := by rw [hu.bcnt_eq]; omega
    have hquiet : u.QuietReset u.params.period := hu.params_eq ▸ hq.drop hu.inputs_eq
    have hbit := (frameRun_bit (.startAt u) [] hu.start hmore hquiet).run_eq
    refine ⟨u.bitSent, ?_, hu.next⟩
    rw [run_add hrun, ← hu.params_eq, hbit]

/-- The pins `j` ticks after a bit's start `s` (40_bit_transmitter.md R71). -/
structure State.InBit (s v : State) (j : Nat) : Prop where
  lcdCsN_low : v.lcdCsN = false
  respValid_low : v.respValid = false
  st_eq : v.st = if j < s.params.settle then .low
    else if j < s.params.settle + s.params.setup then .setup else .high
  lcdWr_eq : v.lcdWr = decide (s.params.settle + s.params.setup ≤ j)
  lcdData_eq : v.lcdData = if s.params.settle ≤ j then s.fsr.getMsbD 0 else s.lcdData
  bcnt_eq : v.bcnt = s.bcnt

/-- Tick by tick through a bit: it waits in LOW, in SETUP, or in HIGH. -/
theorem run_within_bit {s : State} {j : Nat} (hs : s.BitStart) (hj : j < s.params.period)
    (hq : s.QuietReset s.params.period) : ∃ v, run j s = .next v ∧ s.InBit v j := by
  rw [period_eq_phases] at hj hq
  have hS := hs.params_ok.1
  have hrise : s.QuietReset (s.params.settle + s.params.setup) := hq.mono (Nat.le_add_right _ _)
  have hlow := frameRun_low (.startAt s) [] hs (hrise.mono (Nat.le_add_right _ _))
  have hstrobed := hlow.trans (frameRun_setup (.startAt s) [] hs (hrise.drop rfl))
  by_cases hjlow : j < s.params.settle
  · have hrun := run_of_counting (m := j) (.inl hs.st_low) hq hj (by rw [hs.pcnt_eq]; omega)
    refine ⟨_, hrun, hs.lcdCsN_low, ?_, ?_, ?_, ?_, rfl⟩
    · simp [State.waited, hs.respValid_low]
    · simp [State.waited, hs.st_low, hjlow]
    · simp [State.waited, hs.lcdWr_low]; omega
    · simp [State.waited, hjlow]
  · by_cases hjsetup : j < s.params.settle + s.params.setup
    · obtain ⟨i, rfl⟩ := Nat.exists_eq_add_of_le (not_lt.mp hjlow)
      have hrun := run_of_counting (s := s.driven) (m := i) (.inr (.inl rfl)) (hrise.drop rfl)
        (by omega) (Nat.le_sub_one_of_lt (by omega))
      refine ⟨_, (run_add hlow.run_eq).trans hrun, hs.lcdCsN_low, rfl, ?_, ?_, ?_, rfl⟩
      · simp [State.waited, State.driven, hjsetup]
      · simp [State.waited, State.driven, hs.lcdWr_low]; omega
      · simp [State.waited, State.driven]
    · obtain ⟨i, rfl⟩ := Nat.exists_eq_add_of_le (not_lt.mp hjsetup)
      have hrun := run_of_counting (s := s.strobed) (m := i) (.inr (.inr rfl))
        (hq.drop s.strobed_inputs) (by omega) (Nat.le_sub_one_of_lt (by omega))
      refine ⟨_, (run_add hstrobed.run_eq).trans hrun, hs.lcdCsN_low, rfl, ?_, ?_, ?_, rfl⟩
      · simp [State.waited, State.strobed, hjlow]
      · simp [State.waited, State.strobed]
      · simp [State.waited, State.strobed, State.driven]; omega

/-- The last bit ends the frame with nothing left in the transmitter. -/
theorem run_to_frameSent {s : State} {L : Nat} (hs : s.BitStart) (hL : 1 ≤ L)
    (hbcnt : s.bcnt.toNat = L) (hq : s.QuietReset (L * s.params.period)) :
    ∃ u, run (L * s.params.period) s = .next u ∧
      u.st = .idle ∧ u.lcdCsN = true ∧ u.lcdWr = true ∧ u.lcdData = s.fsr.getMsbD (L - 1) ∧
      u.fsr = s.fsr <<< L ∧ u.bcnt = 0 ∧ u.pcnt = 0 ∧ u.respValid = true := by
  obtain ⟨n, rfl⟩ := Nat.exists_eq_add_of_le' hL
  rw [Nat.succ_mul] at hq ⊢
  obtain ⟨v, hrun, hv⟩ := run_to_bit (k := n) hs (by omega) (hq.mono (Nat.le_add_right _ _))
  have hlast : v.bcnt.toNat = 1 := by rw [hv.bcnt_eq]; omega
  have hquiet : v.QuietReset v.params.period := hv.params_eq ▸ hq.drop hv.inputs_eq
  have hend := (frameRun_lastBit (.startAt v) [] hv.start hlast hquiet).run_eq
  refine ⟨v.frameSent, ?_, rfl, rfl, rfl, hv.getMsbD_zero, ?_, rfl, rfl, rfl⟩
  · rw [run_add hrun, ← hv.params_eq, hend]
  · rw [BitVec.shiftLeft_add, ← hv.fsr_eq]
    rfl

/-- Tick by tick through a frame from the start `s` of its first bit. -/
theorem run_to_tick {s : State} {k j : Nat} (hs : s.BitStart) (hk : k < s.bcnt.toNat)
    (hj : j < s.params.period) (hq : s.QuietReset (s.bcnt.toNat * s.params.period)) :
    ∃ u v, run (k * s.params.period + j) s = .next v ∧ s.AtBit u k ∧ u.InBit v j := by
  have hroom : k * s.params.period + s.params.period ≤ s.bcnt.toNat * s.params.period := by
    rw [← Nat.succ_mul]
    exact Nat.mul_le_mul_right _ hk
  obtain ⟨u, hu, hat⟩ := run_to_bit hs hk (hq.mono (by omega))
  have hquiet : u.QuietReset u.params.period :=
    hat.params_eq ▸ (hq.mono hroom).drop hat.inputs_eq
  obtain ⟨v, hv, hin⟩ := run_within_bit hat.start (hat.params_eq ▸ hj) hquiet
  exact ⟨u, v, (run_add hu).trans hv, hat, hin⟩

/-- `t` begins the first bit of the frame `f`, opened in `s`. -/
structure State.FirstBit {L : Nat} (s : State) (f : BitVec L) (t : State) : Prop where
  start : t.BitStart
  bcnt_eq : t.bcnt.toNat = L
  bits : ∀ k, k < L → t.fsr.getMsbD k = f.getLsbD (L - 1 - k)
  drains : t.fsr <<< L = 0
  params_eq : t.params = s.params
  lcdData_eq : t.lcdData = s.lcdData

/-- LEAD lasts one tick. -/
theorem step_to_firstBit {L : Nat} (s : State) (f : BitVec L) (hL : L ≤ 17) (hok : s.params.Ok)
    (hp : ((s.startFrame f).finish false).sampled.noReset = true) :
    ∃ t, step ((s.startFrame f).finish false) = .next t ∧ s.FirstBit f t ∧
      t.inputs = ((s.startFrame f).finish false).inputs.drop 1 :=
  ⟨_, step_of_lead hp rfl,
    { start := ⟨hok, rfl, rfl, rfl, rfl, rfl⟩
      bcnt_eq := Nat.mod_eq_of_lt (by omega)
      bits := fun k hk => (s.load_fsr_getMsbD f hL k).trans (getMsbD_eq_getLsbD f hk)
      drains := s.load_fsr_shiftLeft f hL
      params_eq := rfl
      lcdData_eq := rfl },
    by simp [State.leadSent]⟩

/-- Settles O32: LEAD lasts one tick, then `run_to_tick` and `run_to_frameSent` count from the start of
the first bit. -/
theorem frameFollowsTheTickSchedule : Obligations.FrameFollowsTheTickSchedule := by
  intro L f s hL hL' hok _ hq
  obtain ⟨t, hstep, hfirst, hinputs⟩ :=
    step_to_firstBit s f hL' hok (hq.noReset_sampled (by omega))
  have hquiet : t.QuietReset (L * s.params.period) := hq.drop hinputs
  rw [← hfirst.params_eq] at hquiet ⊢
  refine ⟨fun k j hk hj => ?_, ?_⟩
  · obtain ⟨u, v, hv, hat, hin⟩ :=
      run_to_tick hfirst.start (hfirst.bcnt_eq ▸ hk) hj (hfirst.bcnt_eq ▸ hquiet)
    rw [← hat.params_eq] at hv ⊢
    refine ⟨v, ?_, hin.lcdCsN_low, hin.respValid_low, hin.st_eq, hin.lcdWr_eq, ?_, ?_⟩
    · rw [Nat.add_assoc, Nat.add_comm, run_succ hstep, hv]
    · rw [hin.lcdData_eq, hat.getMsbD_zero, hfirst.bits k hk, hat.lcdData_eq, hfirst.lcdData_eq]
      split_ifs with hj' hk'
      · rfl
      · rfl
      · rw [hfirst.bits _ (by omega)]
        exact congrArg f.getLsbD (by omega)
    · rw [hin.bcnt_eq, hat.bcnt_eq, hfirst.bcnt_eq]
  · obtain ⟨u, hu, hidle, hcs, hwr, hlast, hfsr, hend⟩ :=
      run_to_frameSent hfirst.start hL hfirst.bcnt_eq hquiet
    refine ⟨u, ?_, hidle, hcs, hwr, ?_, hfsr.trans hfirst.drains, hend⟩
    · rw [Nat.add_comm, run_succ hstep, hu]
    · rw [hlast, hfirst.bits _ (by omega)]
      exact congrArg f.getLsbD (by omega)

end Sys2Proof.Machine
end

section
/-! The refinement of 10_state.md R31 to R33: over any run without reset the recorder tells the
transactions of the accepted words. -/

namespace Sys2Proof.Machine

/-- What a recorder shows when exactly the transactions of `ws` are complete (10_state.md R32). -/
def Recorder.after (ws : List RequestWord) : Recorder where
  csN := true
  wr := true
  bits := []
  frames := ws.flatMap fun w => (transact w).1.map Frame.bits
  responses := ws.map fun w => (transact w).2
  strayRises := 0
  glitches := 0

theorem Recorder.after_completed {ws : List RequestWord} {w : RequestWord} {f : Frame}
    (hf : (transact w).1 = [f]) :
    (Recorder.after ws).completed f.bits (transact w).2 = .after (ws ++ [w]) := by
  simp [Recorder.after, Recorder.completed, hf]

/-- The bits of the frame in progress that the recorder has still to sample: in HIGH the first of the
bits left has been. -/
def State.unsampled (s : State) : List Bool :=
  if s.st = .high then s.bitsLeft.tail else s.bitsLeft

theorem State.bitsLeft_eq_cons {s : State} (h : 1 ≤ s.bcnt.toNat) :
    s.bitsLeft = s.fsr.getMsbD 0 :: s.bitsLeft.tail := by
  obtain hmore | hlast := h.lt_or_eq'
  · rw [State.bitsLeft_of_more hmore, List.tail_cons]
  · rw [State.bitsLeft_of_last hlast, List.tail_cons]

theorem State.opened_bitsLeft (s : State) (resp : Response) (f : Frame) :
    (s.opened resp f).bitsLeft = f.bits := by
  rw [State.bitsLeft, s.opened_bcnt, ← f.bitsMsb_word]
  exact congrArg (List.map · _) (funext (s.load_fsr_getMsbD f.word f.len_le))

/-- In `s` the frame `f` of the request `w` is in progress and `sent` has been sampled of it. -/
structure State.Sending (s : State) (w : RequestWord) (f : Frame) (sent : List Bool) : Prop where
  st_ne_idle : s.st ≠ .idle
  frame_eq : (transact w).1 = [f]
  response_eq : (⟨s.respIgnored, s.respData⟩ : Response) = (transact w).2
  bits_eq : sent ++ s.unsampled = f.bits
  data_eq : s.st = .setup → s.lcdData = s.fsr.getMsbD 0

/-- The recorder `r` tells the transactions of `ws`, the last of which may still be in progress. -/
inductive Tells (s : State) : Recorder → List RequestWord → Prop
  | idle {ws : List RequestWord} (hst : s.st = .idle) : Tells s (.after ws) ws
  | sending {vs : List RequestWord} {w : RequestWord} {f : Frame} {sent : List Bool}
      (h : s.Sending w f sent) :
      Tells s ((Recorder.after vs).sending s.lcdWr sent) (vs ++ [w])

/-- In IDLE no transaction is in progress. -/
theorem Tells.eq_after {s : State} {r : Recorder} {ws : List RequestWord} (h : Tells s r ws)
    (hst : s.st = .idle) : r = .after ws := by
  cases h with
  | idle => rfl
  | sending hsend => exact absurd hst hsend.st_ne_idle

theorem tells_of_idle_edge {s t : State} (ws : List RequestWord) (hs : s.Inv) (hst : s.st = .idle)
    (h : Edge s t) : Tells t ((Recorder.after ws).observe t) (ws ++ s.accepts.toList) := by
  obtain ⟨-, -, -, hcs, hwr⟩ := hs.legal.idle_shape hst
  cases h with
  | quiet _ ha =>
    have hobs : (Recorder.after ws).observe (s.advance.finish false) = .after ws := by
      simp [Recorder.observe, Recorder.after, hcs, hwr]
    rw [ha, hobs, Option.toList_none, List.append_nil]
    exact .idle hst
  | @answer _ w ha hf =>
    have hobs : (Recorder.after ws).observe (s.advance.answered (transact w).2) =
        .after (ws ++ [w]) := by
      simp [Recorder.observe, Recorder.after, State.answered, hcs, hwr, hf]
    rw [ha, hobs]
    exact .idle hst
  | @opening _ w f ha hf =>
    have hobs : (Recorder.after ws).observe (s.advance.opened (transact w).2 f) =
        (Recorder.after ws).sending (s.advance.opened (transact w).2 f).lcdWr [] := by
      simp [Recorder.observe, Recorder.after, Recorder.sending, State.opened, hwr]
    rw [ha, hobs]
    exact .sending ⟨nofun, hf, rfl, s.advance.opened_bitsLeft _ f, nofun⟩
  | lead h | lowEnd h | setupEnd h | nextBit h | lastBit h => simp [h] at hst
  | wait hc => exact absurd hst hc.st_ne_idle

/-- An edge at which WR does not rise samples nothing. -/
theorem tells_of_no_rise {s t : State} {w : RequestWord} {f : Frame} {sent : List Bool}
    (vs : List RequestWord) (hcs : t.lcdCsN = false) (hv : t.respValid = false)
    (hwr : t.lcdWr = true → s.lcdWr = true) (h : t.Sending w f sent) :
    Tells t (((Recorder.after vs).sending s.lcdWr sent).observe t) (vs ++ [w]) := by
  rw [Recorder.observe_of_no_rise _ hcs hv hwr]
  exact .sending h

/-- The edge at which WR rises samples DATA. -/
theorem tells_of_rise {s t : State} {w : RequestWord} {f : Frame} {sent : List Bool}
    (vs : List RequestWord) (hcs : t.lcdCsN = false) (hv : t.respValid = false)
    (hlow : s.lcdWr = false) (hwr : t.lcdWr = true) (h : t.Sending w f (sent ++ [t.lcdData])) :
    Tells t (((Recorder.after vs).sending s.lcdWr sent).observe t) (vs ++ [w]) := by
  rw [hlow, Recorder.observe_of_rise _ hcs hv hwr]
  exact hwr ▸ Tells.sending (s := t) h

/-- The edge that ends the last bit completes the transaction. -/
theorem tells_of_completion {s t : State} {w : RequestWord} {f : Frame} (vs : List RequestWord)
    (hst : t.st = .idle) (hcs : t.lcdCsN = true) (hv : t.respValid = true)
    (hhigh : s.lcdWr = true) (hwr : t.lcdWr = true) (hf : (transact w).1 = [f])
    (hresp : (⟨t.respIgnored, t.respData⟩ : Response) = (transact w).2) :
    Tells t (((Recorder.after vs).sending s.lcdWr f.bits).observe t) (vs ++ [w]) := by
  rw [hhigh, Recorder.observe_of_completion _ hcs hv hwr, hresp, Recorder.after_completed hf]
  exact .idle hst

theorem tells_of_frame_edge {s t : State} {w : RequestWord} {f : Frame} {sent : List Bool}
    (vs : List RequestWord) (hs : s.Inv) (hsend : s.Sending w f sent) (h : Edge s t) :
    Tells t (((Recorder.after vs).sending s.lcdWr sent).observe t) (vs ++ [w]) := by
  obtain ⟨hst, hf, hresp, hbits, hdata⟩ := hsend
  have hb := hs.busy hst
  obtain ⟨-, hge, -⟩ := hs.legal.busy_shape hst
  unfold State.unsampled at hbits
  cases h with
  | quiet hidle | answer hidle | opening hidle => exact absurd hidle hst
  | lead hlead =>
    rw [if_neg (by simp [hlead])] at hbits
    exact tells_of_no_rise vs hb.lcdCsN_low rfl nofun ⟨nofun, hf, hresp, hbits, nofun⟩
  | wait hc hz =>
    exact tells_of_no_rise vs hb.lcdCsN_low rfl id ⟨hst, hf, hresp, hbits, hdata⟩
  | lowEnd hlow hz =>
    rw [if_neg (by simp [hlow])] at hbits
    exact tells_of_no_rise vs hb.lcdCsN_low rfl id ⟨nofun, hf, hresp, hbits, fun _ => rfl⟩
  | setupEnd hsetup hz =>
    have hwr : s.lcdWr = false := hs.lcdWr_eq_false_iff.mpr (.inr hsetup)
    rw [if_neg (by simp [hsetup]), State.bitsLeft_eq_cons hge, ← hdata hsetup,
      List.append_cons] at hbits
    exact tells_of_rise vs hb.lcdCsN_low rfl hwr rfl ⟨nofun, hf, hresp, hbits, nofun⟩
  | nextBit hhigh hz hmore =>
    have hcount : (s.bcnt - 1).toNat = s.bitSent.bcnt.toNat := by
      rw [s.bitSent_bcnt, toNat_sub_one hge]
    rw [if_pos hhigh, State.bitsLeft_of_more hmore, List.tail_cons] at hbits
    refine tells_of_no_rise vs hb.lcdCsN_low rfl nofun ⟨nofun, hf, hresp, ?_, nofun⟩
    change sent ++ (List.range (s.bcnt - 1).toNat).map (s.fsr <<< 1).getMsbD = f.bits
    rw [hcount]
    exact hbits
  | lastBit hhigh hz hlast =>
    have hwr := hs.legal.wr_high hhigh
    rw [if_pos hhigh, State.bitsLeft_of_last (le_antisymm (not_lt.mp hlast) hge), List.tail_cons,
      List.append_nil] at hbits
    rw [hbits]
    exact tells_of_completion vs rfl rfl rfl hwr hwr hf hresp

theorem tells_of_edge {s t : State} {r : Recorder} {ws : List RequestWord} (hs : s.Inv)
    (hr : Tells s r ws) (h : Edge s t) : Tells t (r.observe t) (ws ++ s.accepts.toList) := by
  cases hr with
  | idle hst => exact tells_of_idle_edge ws hs hst h
  | sending hsend =>
    rw [State.accepts_of_st_ne_idle hsend.st_ne_idle, Option.toList_none, List.append_nil]
    exact tells_of_frame_edge _ hs hsend h

theorem State.running_of_input {s : State} {x : PortInput} {rest : List PortInput}
    (hin : s.inputs = x :: rest) (hx : x.running = true) : s.Running := by
  have hp : s.sampled = x := by rw [State.sampled, hin]; rfl
  obtain ⟨⟨⟨hr, hv⟩, hw⟩, hrst⟩ : ((x.rstNStable = true ∧ x.reqValidStable = true) ∧
      x.reqWordStable = true) ∧ x.rstN = true := by
    simpa [PortInput.running, PortInput.stable] using hx
  rw [← hp] at hr hv hw hrst
  exact ⟨s.synchronous_iff.mpr ⟨hr, fun _ _ => ⟨hv, fun _ => hw⟩⟩, hrst⟩

/-- Along any run with synchronous inputs and no reset the recorder tells the accepted words. -/
theorem tells_of_run {ins : List PortInput} {s u : State} {r : Recorder} {ws : List RequestWord}
    (hs : s.Inv) (hin : s.inputs = ins) (hins : ∀ x, x ∈ ins → x.running = true)
    (hr : Tells s r ws) (hrun : run ins.length s = .next u) :
    Tells u (record ins.length s r) (ws ++ acceptedWords ins.length s) := by
  induction ins generalizing s r ws with
  | nil =>
    cases hrun
    exact (List.append_nil ws).symm ▸ hr
  | cons x ins ih =>
    obtain ⟨t, ht⟩ := step_answers_next s
    have hedge := edge_of_running (s.running_of_input hin (hins x List.mem_cons_self)) ht
    have hrest : t.inputs = ins := by rw [hedge.inputs, hin, List.tail_cons]
    rw [List.length_cons, run_succ ht] at hrun
    rw [List.length_cons, record_succ ht, acceptedWords_succ ht, ← List.append_assoc]
    exact ih (hs.edge hedge) hrest (fun y hy => hins y (List.mem_cons_of_mem x hy))
      (tells_of_edge hs hr hedge) hrun

/-- Settles O53: in IDLE what the recorder tells is complete. -/
theorem wireShowsExactlyTheAcceptedTransactions :
    Obligations.WireShowsExactlyTheAcceptedTransactions := by
  intro p ins u hok hins hrun hidle
  have hstart : (State.started p ins).Inv := State.inv_of_idle hok rfl rfl rfl rfl rfl rfl
  have htells := tells_of_run (ins := ins) (ws := []) hstart rfl hins (.idle rfl) hrun
  exact htells.eq_after hidle

end Sys2Proof.Machine
end

section
/-! Requests offered back to back (70_reset_and_hazards.md R125, R126): each is accepted at the edge after
the one before it completes. -/

namespace Sys2Proof.Machine

/-! ### Accepted words and inputs over a run -/

theorem acceptedWords_add {m n : Nat} {s t : State} (h : run m s = .next t) :
    acceptedWords (m + n) s = acceptedWords m s ++ acceptedWords n t := by
  induction m generalizing s with
  | zero => cases h; rw [Nat.zero_add]; rfl
  | succ m ih =>
    obtain ⟨u, hu⟩ := step_answers_next s
    rw [run_succ hu] at h
    rw [Nat.add_right_comm, acceptedWords_succ hu, acceptedWords_succ hu, ih h, List.append_assoc]

theorem acceptedWords_one (s : State) : acceptedWords 1 s = s.accepts.toList := by
  obtain ⟨t, ht⟩ := step_answers_next s
  rw [acceptedWords_succ ht]
  exact List.append_nil _

/-- Outside IDLE nothing is accepted. -/
theorem acceptedWords_of_busy {n : Nat} {s : State}
    (h : ∀ m, m < n → ∃ v, run m s = .next v ∧ v.st ≠ .idle) : acceptedWords n s = [] := by
  induction n generalizing s with
  | zero => rfl
  | succ n ih =>
    obtain ⟨v, hv, hbusy⟩ := h 0 n.succ_pos
    cases hv
    obtain ⟨t, ht⟩ := step_answers_next s
    rw [acceptedWords_succ ht, State.accepts_of_st_ne_idle hbusy]
    exact ih fun m hm => run_succ ht ▸ h (m + 1) (Nat.succ_lt_succ hm)

theorem run_keeps {n : Nat} {s t : State} (h : run n s = .next t) :
    t.params = s.params ∧ t.inputs = s.inputs.drop n := by
  induction n generalizing s with
  | zero => cases h; exact ⟨rfl, rfl⟩
  | succ n ih =>
    obtain ⟨u, hu⟩ := step_answers_next s
    have hkeeps := step_keeps hu
    obtain ⟨hparams, hinputs⟩ := ih ((run_succ hu).symm.trans h)
    rw [hparams, hinputs, hkeeps.params_eq, hkeeps.inputs_eq, State.advance_inputs, List.drop_tail]
    exact ⟨rfl, rfl⟩

/-! ### One request, to its completion -/

theorem latency_of_no_frame {w : RequestWord} (p : Params) (hf : (transact w).1 = []) :
    latency p w = 0 := by
  simp only [latency, hf]

theorem latency_of_frame {w : RequestWord} {f : Frame} (p : Params) (hf : (transact w).1 = [f]) :
    latency p w = 1 + f.len * p.period := by
  simp only [latency, hf]

/-- From IDLE a request offered is accepted, and no other before it has completed. -/
theorem run_of_offer {s : State} {w : RequestWord} (hok : s.params.Ok) (hst : s.st = .idle)
    (hp : s.sampled = .offer w) (hq : s.advance.QuietReset (latency s.params w)) :
    acceptedWords (latency s.params w + 1) s = [w] ∧
      ∃ u, run (latency s.params w + 1) s = .next u ∧ u.st = .idle ∧ u.respValid = true := by
  have ha : s.accepts = some w := State.accepts_of_offer hst hp
  have hexec : step s = exec (decodeRequest w) s.advance :=
    step_of_accepts (s.synchronous_iff.mpr (by simp [hp, PortInput.offer])) ha
  obtain hf | ⟨f, hf⟩ := transact_frames_cases w
  · have hstep := hexec.trans (exec_decodeRequest_of_no_frame hf s.advance)
    rw [latency_of_no_frame _ hf, Nat.zero_add, acceptedWords_one, ha, run_one]
    exact ⟨rfl, _, hstep, hst, rfl⟩
  · have hstep := hexec.trans (exec_decodeRequest_of_frame hf s.advance)
    have hlen : latency s.params w = 1 + (bitsMsb f.word).length * s.params.period := by
      rw [bitsMsb_length, latency_of_frame _ hf]
    have hsends : (s.advance.opened (transact w).2 f).SendsFrame (bitsMsb f.word) (transact w).2 :=
      startFrame_sendsFrame (s := s.advance.respond _ _) f.word f.len_pos f.len_le hok
    rw [hlen] at hq ⊢
    obtain ⟨⟨u, hrun, hidle, -, -, hv, -⟩, -, hbusy⟩ := hsends hq
    have hnone := acceptedWords_of_busy fun m hm =>
      (hbusy m hm).imp fun v hv => ⟨hv.1, hv.2.1⟩
    refine ⟨?_, u, (run_succ hstep).trans hrun, hidle, hv⟩
    rw [acceptedWords_succ hstep, ha]
    exact congrArg (w :: ·) hnone

/-! ### A sequence of requests -/

/-- After its offer the host drives one port level, without reset, until the request completes. -/
theorem backToBack_cons (p : Params) (w : RequestWord) (ws : List RequestWord) :
    ∃ x : PortInput, x.noReset = true ∧
      backToBack p (w :: ws) =
        .offer w :: (List.replicate (latency p w) x ++ backToBack p ws) := by
  cases ws with
  | nil => exact ⟨.quiet, rfl, by simp [backToBack]⟩
  | cons v ws => exact ⟨.offer v, rfl, rfl⟩

theorem backToBack_length (p : Params) (ws : List RequestWord) :
    (backToBack p ws).length = (ws.map (latency p)).sum + ws.length := by
  induction ws with
  | nil => rfl
  | cons w ws ih =>
    obtain ⟨x, -, hins⟩ := backToBack_cons p w ws
    simp only [hins, List.length_cons, List.length_append, List.length_replicate, ih, List.map_cons,
      List.sum_cons]
    omega

/-- The first of the requests is accepted and completes, and the others are next on the port. -/
theorem run_backToBack_cons {s : State} {w : RequestWord} {ws : List RequestWord}
    (hok : s.params.Ok) (hst : s.st = .idle) (hin : s.inputs = backToBack s.params (w :: ws)) :
    acceptedWords (latency s.params w + 1) s = [w] ∧
      ∃ u, run (latency s.params w + 1) s = .next u ∧ u.st = .idle ∧ u.respValid = true ∧
        u.params = s.params ∧ u.inputs = backToBack s.params ws := by
  obtain ⟨x, hx, hcons⟩ := backToBack_cons s.params w ws
  rw [hcons] at hin
  have hp : s.sampled = .offer w := by rw [State.sampled, hin]; rfl
  have hq : s.advance.QuietReset (latency s.params w) := fun k hk => by
    simp [hin, List.getD_eq_getElem?_getD, List.getElem?_append_left, hk, hx]
  obtain ⟨hwords, u, hrun, hidle, hv⟩ := run_of_offer hok hst hp hq
  obtain ⟨hparams, hinputs⟩ := run_keeps hrun
  refine ⟨hwords, u, hrun, hidle, hv, hparams, ?_⟩
  rw [hinputs, hin, List.drop_succ_cons, List.drop_left' List.length_replicate]

/-- The machine is idle when the last request has completed; the pulse is then its own. -/
theorem run_backToBack (ws : List RequestWord) {s : State} (hok : s.params.Ok) (hst : s.st = .idle)
    (hin : s.inputs = backToBack s.params ws) :
    acceptedWords (backToBack s.params ws).length s = ws ∧
      ∃ u, run (backToBack s.params ws).length s = .next u ∧ u.st = .idle ∧
        (ws ≠ [] ∨ s.respValid = true → u.respValid = true) := by
  induction ws generalizing s with
  | nil => exact ⟨rfl, s, rfl, hst, fun h => h.resolve_left (not_not.mpr rfl)⟩
  | cons w ws ih =>
    obtain ⟨hwords, t, hrun, hidle, hv, hparams, hinputs⟩ := run_backToBack_cons hok hst hin
    obtain ⟨hrest, u, hrun', hu, hv'⟩ := ih (s := t) (hparams ▸ hok) hidle (hparams ▸ hinputs)
    have hlen : (backToBack s.params (w :: ws)).length =
        latency s.params w + 1 + (backToBack s.params ws).length := by
      simp only [backToBack_length, List.map_cons, List.sum_cons, List.length_cons]
      omega
    rw [hparams] at hrest hrun'
    rw [hlen, acceptedWords_add hrun, hwords, hrest, run_add hrun]
    exact ⟨rfl, u, hrun', hu, fun _ => hv' (.inr hv)⟩

/-- Settles O54: `run_backToBack`; of two words, the second is accepted at the edge after the
first has completed. -/
theorem backToBackRequestsTakeTheirLatencies :
    Obligations.BackToBackRequestsTakeTheirLatencies := by
  intro p ws hok hne
  obtain ⟨hwords, u, hrun, hidle, hv⟩ :=
    run_backToBack ws (s := .started p (backToBack p ws)) hok rfl rfl
  refine ⟨backToBack_length p ws, hwords, ⟨u, hrun, hidle, hv (.inl hne)⟩, fun w v => ⟨rfl, ?_⟩⟩
  obtain ⟨hfirst, t, ht, htidle, -, htparams, htinputs⟩ :=
    run_backToBack_cons (s := .started p (backToBack p [w, v])) hok rfl rfl
  have hsecond : t.accepts = some v :=
    State.accepts_of_offer htidle (by rw [State.sampled, htinputs]; rfl)
  refine ⟨hfirst, (acceptedWords_add (n := 1) ht).trans ?_⟩
  rw [acceptedWords_one, hsecond]
  exact congrArg (· ++ [v]) hfirst

end Sys2Proof.Machine
end

section
/-! The assembler's operand ranges (30_encoding.md R62), what a pattern tells (42_segment_encoder.md R89,
R90), and the frames of the host macros (30_encoding.md R64). -/

namespace Sys2Proof.Machine

/-! ### The assembler's words -/

theorem cmdWord_ofNat {code : Nat} (h : code ≤ 255) :
    cmdWord (BitVec.ofNat 8 code) = BitVec.ofNat 16 code := by
  apply BitVec.eq_of_toNat_eq
  simp only [cmdWord_toNat, BitVec.toNat_ofNat]
  omega

theorem writeWord_ofNat {addr data : Nat} (ha : addr ≤ 63) (hd : data ≤ 255) :
    writeWord (BitVec.ofNat 6 addr) (BitVec.ofNat 8 data) =
      BitVec.ofNat 16 (0x4000 + 256 * addr + data) := by
  apply BitVec.eq_of_toNat_eq
  simp only [writeWord_toNat, BitVec.toNat_ofNat]
  omega

/-- The colon bit's weight in a request word. -/
theorem sixteen_mul_toNat (colon : Bool) : 16 * colon.toNat = if colon then 16 else 0 := by
  cases colon <;> rfl

theorem digitWord_ofNat {pos dg : Nat} (colon : Bool) (hp : pos ≤ 31) (hd : dg ≤ 15) :
    digitWord (BitVec.ofNat 5 pos) colon (BitVec.ofNat 4 dg) =
      BitVec.ofNat 16 (0x8000 + 512 * pos + (if colon then 16 else 0) + dg) := by
  have hk := colon.toNat_le
  rw [← sixteen_mul_toNat]
  apply BitVec.eq_of_toNat_eq
  simp only [digitWord_toNat, BitVec.toNat_ofNat]
  omega

theorem lookupWord_ofNat {dg : Nat} (colon : Bool) (hd : dg ≤ 15) :
    lookupWord colon (BitVec.ofNat 4 dg) =
      BitVec.ofNat 16 (0xC000 + (if colon then 16 else 0) + dg) := by
  have hk := colon.toNat_le
  rw [← sixteen_mul_toNat]
  apply BitVec.eq_of_toNat_eq
  simp only [lookupWord_toNat, BitVec.toNat_ofNat]
  omega

theorem assemble_of_check_none {a : Asm} (h : a.check = none) :
    assemble a = .ok (carrierWord (asmInstr a)) :=
  (assemble_eq_ok_iff a _).mpr ⟨h, rfl⟩

theorem assemble_of_check_some {a : Asm} {e : AsmError} (h : a.check = some e) :
    assemble a = .error e := by
  simp only [assemble, h]

/-- Settles O55: the check refuses by operand, and the words have no reserved bit set. -/
theorem assemblerRefusesOperandsOutOfRange : Obligations.AssemblerRefusesOperandsOutOfRange := by
  refine ⟨fun code => ?_, fun addr data => ?_, fun pos dg colon => ?_, fun dg colon => ?_⟩
  · by_cases hc : code ≤ 255
    · rw [if_pos hc, ← cmdWord_ofNat hc]
      exact assemble_of_check_none (if_pos hc)
    · rw [if_neg hc]
      exact assemble_of_check_some (if_neg hc)
  · by_cases ha : addr ≤ 63
    · by_cases hd : data ≤ 255
      · rw [if_pos ha, if_pos hd, ← writeWord_ofNat ha hd]
        exact assemble_of_check_none ((if_pos ha).trans (if_pos hd))
      · rw [if_pos ha, if_neg hd]
        exact assemble_of_check_some ((if_pos ha).trans (if_neg hd))
    · rw [if_neg ha]
      exact assemble_of_check_some (if_neg ha)
  · by_cases hp : pos ≤ 31
    · by_cases hd : dg ≤ 15
      · rw [if_pos hp, if_pos hd, ← digitWord_ofNat colon hp hd]
        exact assemble_of_check_none ((if_pos hp).trans (if_pos hd))
      · rw [if_pos hp, if_neg hd]
        exact assemble_of_check_some ((if_pos hp).trans (if_neg hd))
    · rw [if_neg hp]
      exact assemble_of_check_some (if_neg hp)
  · by_cases hd : dg ≤ 15
    · rw [if_pos hd, ← lookupWord_ofNat colon hd]
      exact assemble_of_check_none (if_pos hd)
    · rw [if_neg hd]
      exact assemble_of_check_some (if_neg hd)

/-! ### What a pattern tells -/

/-- Bit 4 of a pattern is the colon (42_segment_encoder.md R89), and the others are the digit's. -/
theorem segmentPattern_tells {d : Digit} {k : Bool} {p : DataByte}
    (h : segmentPattern d k = some p) :
    p.getLsbD 4 = k ∧ lutRead d = some (p &&& 0xEF) := by
  have htable : ∀ q ∈ segmentTable, ∀ k : Bool,
      (q ||| if k then 0x10 else 0x00).getLsbD 4 = k ∧
        (q ||| if k then 0x10 else 0x00) &&& 0xEF = q := by decide
  obtain ⟨q, hq⟩ := (exists_lutRead_iff d).mpr ((exists_segmentPattern_iff d k).mp ⟨p, h⟩)
  obtain rfl := Option.some.inj ((segmentPattern_of_lutRead k hq).symm.trans h)
  obtain ⟨hcolon, hbase⟩ := htable q (List.mem_of_getElem? hq) k
  exact ⟨hcolon, hbase.symm ▸ hq⟩

/-- The ten patterns are different. -/
theorem lutRead_inj {d e : Digit} {p : DataByte} (hd : lutRead d = some p)
    (he : lutRead e = some p) : d = e := by
  have hnodup : segmentTable.Nodup := by decide
  have hlt : d.toNat < segmentTable.length := Nat.lt_succ_of_le ((exists_lutRead_iff d).mp ⟨p, hd⟩)
  exact BitVec.eq_of_toNat_eq ((List.getElem?_inj hlt hnodup).mp (hd.trans he.symm))

/-- Settles O23. -/
theorem patternsDetermineDigitAndColon : Obligations.PatternsDetermineDigitAndColon := by
  refine ⟨fun d p h => ?_, fun d e k l p hd he => ?_⟩
  · obtain ⟨hcolon, hbase⟩ := segmentPattern_tells h
    have hadd : ∀ q ∈ segmentTable, q ||| 0x10 = q + 0x10 := by decide
    have hbare : p &&& 0xEF = p := by
      simpa [hbase] using (segmentPattern_of_lutRead false hbase).symm.trans h
    rw [hbare] at hbase
    exact ⟨hcolon, (segmentPattern_of_lutRead true hbase).trans
      (congrArg some (hadd p (List.mem_of_getElem? hbase)))⟩
  · obtain ⟨hk, hp⟩ := segmentPattern_tells hd
    obtain ⟨hl, hq⟩ := segmentPattern_tells he
    exact ⟨lutRead_inj hp hq, hk.symm.trans hl⟩

/-! ### The frames of the host macros -/

/-- The frames that a statement's word puts on the wire (10_state.md R31). -/
def asmFrames (a : Asm) : List Frame := (transact (carrierWord (asmInstr a))).1

theorem assembleAll_of_wellFormed {as : List Asm} (h : ∀ a ∈ as, a.WellFormed) :
    assembleAll as = .ok (as.map fun a => carrierWord (asmInstr a)) := by
  induction as with
  | nil => rfl
  | cons a as ih =>
    obtain ⟨ha, has⟩ := List.forall_mem_cons.mp h
    simp only [assembleAll, assemble_of_check_none ha, ih has, List.map_cons]

/-- What expands to statements that the assembler takes sends the frames of each in turn. -/
theorem HostMacro.frames_eq {m : HostMacro} (h : ∀ a ∈ m.expand, a.WellFormed) :
    m.frames = m.expand.flatMap asmFrames := by
  simp only [HostMacro.frames, assembleAll_of_wellFormed h, List.flatMap_map]
  rfl

theorem asmFrames_write (addr data : Nat) :
    asmFrames (.write addr data) = [.wr (BitVec.ofNat 6 addr) (BitVec.ofNat 8 data)] := by
  rw [asmFrames, asmInstr, carrierWord, transact_of_write (writeWord_op _ _), writeWord_addr,
    writeWord_data]

/-- A DIGIT statement sends its pattern, if the digit has one (42_segment_encoder.md R93). -/
theorem asmFrames_digit {dg : Nat} {colon : Bool} {p : DataByte} (pos : Nat)
    (h : segmentPattern (BitVec.ofNat 4 dg) colon = some p) :
    asmFrames (.digit pos dg colon) = [.wr (digitAddress (BitVec.ofNat 5 pos)) p] := by
  rw [asmFrames, asmInstr, carrierWord, transact_of_digit_pattern (p := p) (digitWord_op _ _ _)
    (by rw [digitWord_digit, digitWord_colon, h]), digitWord_pos]

theorem asmFrames_digit_ignored {dg : Nat} {colon : Bool} (pos : Nat)
    (h : segmentPattern (BitVec.ofNat 4 dg) colon = none) :
    asmFrames (.digit pos dg colon) = [] := by
  rw [asmFrames, asmInstr, carrierWord, transact_of_digit_no_pattern (digitWord_op _ _ _)
    (by rw [digitWord_digit, digitWord_colon, h])]

theorem digit_wellFormed {pos dg : Nat} (colon : Bool) (hp : pos ≤ 31) (hd : dg ≤ 15) :
    (Asm.digit pos dg colon).WellFormed :=
  (if_pos hp).trans (if_pos hd)

/-! ### SHOWDIGIT -/

theorem ofInt_eq_ofNat_toNat {w : Nat} {n : Int} (h : 0 ≤ n) :
    BitVec.ofInt w n = BitVec.ofNat w n.toNat := by
  obtain ⟨m, rfl⟩ := Int.eq_ofNat_of_zero_le h
  exact BitVec.ofInt_natCast w m

/-- An integer digit 0–9 has a pattern, the one of the number the assembler is given. -/
theorem exists_segmentPattern_of_int {d : Int} (colon : Bool) (h0 : 0 ≤ d) (h9 : d ≤ 9) :
    ∃ p, segmentPattern (BitVec.ofInt 4 d) colon = some p ∧
      segmentPattern (BitVec.ofNat 4 d.toNat) colon = some p := by
  rw [ofInt_eq_ofNat_toNat h0, exists_congr fun p => and_self_iff, exists_segmentPattern_iff,
    BitVec.toNat_ofNat]
  omega

/-- The position that SHOWDIGIT gives the assembler, as an address (42_segment_encoder.md R95). -/
theorem digitAddress_of_int (p : Int) :
    digitAddress (BitVec.ofNat 5 (p % 32).toNat) = BitVec.ofInt 6 (p * 2) := by
  have hpos : BitVec.ofNat 5 (p % 32).toNat = BitVec.ofInt 5 p := by
    apply BitVec.eq_of_toNat_eq
    rw [BitVec.toNat_ofNat, BitVec.toNat_ofInt]
    omega
  rw [hpos]
  exact digitAddressIsTwiceThePosition.2 p

/-- Settles O57: any digit outside 0–9 is sent to the assembler as 15, which has no pattern. -/
theorem showDigitSendsTwiceThePositionOrNothing :
    Obligations.ShowDigitSendsTwiceThePositionOrNothing := by
  refine fun p d colon => ⟨fun ⟨h0, h9⟩ => ?_, fun hd => ?_⟩
  · obtain ⟨pattern, hint, hnat⟩ := exists_segmentPattern_of_int colon h0 h9
    have hexpand : (HostMacro.showDigit p d colon).expand =
        [.digit (p % 32).toNat d.toNat colon] := if_pos ⟨h0, h9⟩
    refine ⟨pattern, hint, ?_⟩
    rw [HostMacro.frames_eq, hexpand, List.flatMap_singleton, asmFrames_digit _ hnat,
      digitAddress_of_int]
    rw [hexpand, List.forall_mem_singleton]
    exact digit_wellFormed colon (by omega) (by omega)
  · have hexpand : (HostMacro.showDigit p d colon).expand =
        [.digit (p % 32).toNat 15 false] := if_neg (by omega)
    rw [HostMacro.frames_eq, hexpand, List.flatMap_singleton, asmFrames_digit_ignored _ rfl]
    rw [hexpand, List.forall_mem_singleton]
    exact digit_wellFormed false (by omega) (by omega)

/-! ### SHOWNUM -/

theorem writeAll_wellFormed {data : Nat} (h : data ≤ 255) : ∀ a ∈ writeAll data, a.WellFormed := by
  intro a ha
  obtain ⟨i, hi, rfl⟩ := List.mem_map.mp ha
  have hi := List.mem_range.mp hi
  exact (if_pos (by omega)).trans (if_pos h)

theorem clear_frames_eq : HostMacro.clear.frames = (writeAll 0x00).flatMap asmFrames :=
  HostMacro.frames_eq (writeAll_wellFormed (by decide))

/-- What SHOWNUM sends after the frames of CLEAR. -/
theorem showNum_frames {n : Int} {as : List Asm}
    (h : (HostMacro.showNum n).expand = writeAll 0x00 ++ as) (has : ∀ a ∈ as, a.WellFormed) :
    (HostMacro.showNum n).frames = HostMacro.clear.frames ++ as.flatMap asmFrames := by
  have hall : ∀ a ∈ (HostMacro.showNum n).expand, a.WellFormed := by
    rw [h, List.forall_mem_append]
    exact ⟨writeAll_wellFormed (by decide), has⟩
  rw [HostMacro.frames_eq hall, h, List.flatMap_append, clear_frames_eq]

/-- Settles O58: by the number of digits SHOWNUM shows. -/
theorem showNumClearsThenShowsTheDigits : Obligations.ShowNumClearsThenShowsTheDigits := by
  refine ⟨?_, fun n => ⟨fun hn => ?_, fun ⟨h0, h9⟩ => ?_, fun ⟨h10, h99⟩ => ?_⟩⟩
  · rw [clear_frames_eq, writeAll, List.flatMap_map]
    simp only [asmFrames_write]
    exact List.map_eq_flatMap.symm
  · have hexpand : (HostMacro.showNum n).expand = writeAll 0x00 ++ [] :=
      congrArg (writeAll 0x00 ++ ·) (if_neg (by omega))
    rw [showNum_frames hexpand (by simp), List.flatMap_nil, List.append_nil]
  · obtain ⟨p, hint, hnat⟩ := exists_segmentPattern_of_int false h0 h9
    have hexpand : (HostMacro.showNum n).expand =
        writeAll 0x00 ++ [.digit 1 n.toNat false] := by
      simp only [HostMacro.expand]
      rw [if_pos (by omega), if_neg (by omega), List.nil_append, Int.emod_eq_of_lt h0 (by omega)]
    refine ⟨p, hint, ?_⟩
    rw [showNum_frames hexpand, List.flatMap_singleton, asmFrames_digit _ hnat]
    · rfl
    · rw [List.forall_mem_singleton]
      exact digit_wellFormed false (by omega) (by omega)
  · obtain ⟨p, hint, hnat⟩ := exists_segmentPattern_of_int (d := n / 10) false (by omega) (by omega)
    obtain ⟨q, hint', hnat'⟩ :=
      exists_segmentPattern_of_int (d := n % 10) false (by omega) (by omega)
    have hexpand : (HostMacro.showNum n).expand =
        writeAll 0x00 ++ [.digit 0 (n / 10).toNat false, .digit 1 (n % 10).toNat false] := by
      simp only [HostMacro.expand]
      rw [if_pos (by omega), if_pos (by omega)]
      rfl
    refine ⟨p, q, hint, hint', ?_⟩
    rw [showNum_frames hexpand, List.flatMap_cons, List.flatMap_singleton, asmFrames_digit _ hnat,
      asmFrames_digit _ hnat']
    · rfl
    · rw [List.forall_mem_cons, List.forall_mem_singleton]
      exact ⟨digit_wellFormed false (by omega) (by omega),
        digit_wellFormed false (by omega) (by omega)⟩

end Sys2Proof.Machine
end
